-- ==== Sys2Proof/Word.lean ====
section
/-! DEFINITION. The data types of crypty CORE's values: bytes, limbs, Integers, Points, register numbers. -/

namespace Sys2Proof

/-- One byte of the I/O buffer (20_memory.md R50). -/
abbrev Byte := BitVec 8

/-- One limb: an unsigned 26-bit chunk of a magnitude (10_state.md R22, 00_scope.md R7 `LIMB_BITS`). -/
abbrev Limb := BitVec 26

/-- A 4-bit register field of the command word (30_encoding.md R72). It names `R[i]` or `P[i]`,
according to the operation. -/
abbrev RegIdx := BitVec 4

/-- The hardware's multi-precision signed integer (10_state.md R22): a sign flag, true iff the value
is strictly negative, and the limbs, least significant first. The canonical form of R23 is a
predicate (`Integer.canonical`), not part of the type. -/
structure Integer where
  sign : Bool
  limbs : List Limb
  deriving DecidableEq, Repr

/-- `length` of 10_state.md R22: how many limbs the Integer has. -/
abbrev Integer.length (A : Integer) : Nat := A.limbs.length

/-- A Point: a pair of Integers, affine coordinates (10_state.md R28). There is no representation of
the point at infinity. -/
structure Point where
  x : Integer
  y : Integer
  deriving DecidableEq, Repr

end Sys2Proof
end

