-- ==== Sys2Proof/Syntax.lean ====
section
/-! DEFINITION. The commands of crypty CORE: one constructor per row of 30_encoding.md R75, operands in
the order of the assembler syntax of R80 (destinations first). -/

namespace Sys2Proof

/-- The 35 commands of 30_encoding.md R75. A `RegIdx` operand is an Integer register unless the
docstring says Point. -/
inductive Instr where
  /-- `LDI Rd, #simm32` (R91). -/
  | ldi (d : RegIdx) (imm : BitVec 32)
  /-- `LDB Rd` (R92). -/
  | ldb (d : RegIdx)
  /-- `LDS Rd, base` (R93); `m` is the base field of R74. -/
  | lds (d : RegIdx) (m : BitVec 8)
  /-- `STS Ra, base` (R181). -/
  | sts (a : RegIdx) (m : BitVec 8)
  /-- `ADD Rd, Ra, Rb` (R119). -/
  | add (d a b : RegIdx)
  /-- `ADDIP Rd, Rb` (R120). -/
  | addip (d b : RegIdx)
  /-- `SUB Rd, Ra, Rb` (R121). -/
  | sub (d a b : RegIdx)
  /-- `SUBIP Rd, Rb` (R122). -/
  | subip (d b : RegIdx)
  /-- `MUL Rd, Ra, Rb` (R123). -/
  | mul (d a b : RegIdx)
  /-- `MULIP Rd, Rb` (R124). -/
  | mulip (d b : RegIdx)
  /-- `SQR Rd, Ra` (R125). -/
  | sqr (d a : RegIdx)
  /-- `NEG Rd, Ra` (R126). -/
  | neg (d a : RegIdx)
  /-- `MOV Rd, Ra` (R127). -/
  | mov (d a : RegIdx)
  /-- `SHL Rd, Ra, #bits` (R128). -/
  | shl (d a : RegIdx) (imm : BitVec 32)
  /-- `SHLIP Rd, #bits` (R129). -/
  | shlip (d : RegIdx) (imm : BitVec 32)
  /-- `SHR Rd, Ra, #bits` (R130). -/
  | shr (d a : RegIdx) (imm : BitVec 32)
  /-- `SHRO Rd, Rc, Ra, #bits` (R131). -/
  | shro (d c a : RegIdx) (imm : BitVec 32)
  /-- `SHRIP Rd, #bits` (R132). -/
  | shrip (d : RegIdx) (imm : BitVec 32)
  /-- `SHRIPO Rd, Rc, #bits` (R133). -/
  | shripo (d c : RegIdx) (imm : BitVec 32)
  /-- `DIVQ Rd, Ra, Rb` (R157). -/
  | divq (d a b : RegIdx)
  /-- `DIVR Rd, Ra, Rb` (R158). -/
  | divr (d a b : RegIdx)
  /-- `DIVQR Rd, Rc, Ra, Rb` (R159). -/
  | divqr (d c a b : RegIdx)
  /-- `MODINV Rd, Ra, Rb` (R172). -/
  | modinv (d a b : RegIdx)
  /-- `CSEL #id` (R202). -/
  | csel (imm : BitVec 32)
  /-- `CSET Ra, Rb, Pc` (R203). -/
  | cset (a b c : RegIdx)
  /-- `PMK Pd, Ra, Rb` (R191). -/
  | pmk (d a b : RegIdx)
  /-- `PGX Rd, Pa` (R192). -/
  | pgx (d a : RegIdx)
  /-- `PGY Rd, Pa` (R193). -/
  | pgy (d a : RegIdx)
  /-- `PMOV Pd, Pa` (R194). -/
  | pmov (d a : RegIdx)
  /-- `PEQ Pa, Pb` (R195). -/
  | peq (a b : RegIdx)
  /-- `PSTS Pa` (R196). -/
  | psts (a : RegIdx)
  /-- `PLDG Pd` (R204). -/
  | pldg (d : RegIdx)
  /-- `PADD Pd, Pa, Pb` (R207). -/
  | padd (d a b : RegIdx)
  /-- `PDBL Pd, Pa` (R209). -/
  | pdbl (d a : RegIdx)
  /-- `PMUL Pd, Ra, Pb` (R212). -/
  | pmul (d a b : RegIdx)
  deriving DecidableEq, Repr

end Sys2Proof
end

