-- ==== Sys2Proof/WellFormed.lean ====
section
/-! DEFINITION. Which commands are well formed: the operand rule the encoding fields do not already
enforce (30_encoding.md R78). -/

namespace Sys2Proof

/-- 30_encoding.md R78: the three commands with two Integer destinations need two different ones.
Every other operand value is legal (R72), unsupported bases included (R74: they fault in the
operation). -/
def Instr.wellFormed : Instr → Bool
  | .shro d c _ _ => d != c
  | .shripo d c _ => d != c
  | .divqr d c _ _ => d != c
  | .ldi _ _ | .ldb _ | .lds _ _ | .sts _ _ | .add _ _ _ | .addip _ _ | .sub _ _ _ | .subip _ _
  | .mul _ _ _ | .mulip _ _ | .sqr _ _ | .neg _ _ | .mov _ _ | .shl _ _ _ | .shlip _ _
  | .shr _ _ _ | .shrip _ _ | .divq _ _ _ | .divr _ _ _ | .modinv _ _ _ | .csel _ | .cset _ _ _
  | .pmk _ _ _ | .pgx _ _ | .pgy _ _ | .pmov _ _ | .peq _ _ | .psts _ | .pldg _ | .padd _ _ _
  | .pdbl _ _ | .pmul _ _ _ => true

end Sys2Proof
end

