-- ==== Sys2Proof/Decode.lean ====
section
/-! DEFINITION. The command encoding (30_encoding.md): the fields of a word, the decoder of R79, the
opcode table of R75, and after them the encoder. -/

namespace Sys2Proof

/-- The fields of format `CMD64` (30_encoding.md R71). -/
structure Fields where
  /-- bits 63:56, the operation code -/
  op : BitVec 8
  /-- bits 55:52 -/
  d : RegIdx
  /-- bits 51:48 -/
  a : RegIdx
  /-- bits 47:44 -/
  b : RegIdx
  /-- bits 43:40 -/
  c : RegIdx
  /-- bits 39:32, the mode -/
  m : BitVec 8
  /-- bits 31:0, the immediate -/
  imm : BitVec 32
  deriving DecidableEq, Repr

/-- The fields of a command word (R71, first lines of R79). -/
def fieldsOf (w : BitVec 64) : Fields where
  op := w.extractLsb' 56 8
  d := w.extractLsb' 52 4
  a := w.extractLsb' 48 4
  b := w.extractLsb' 44 4
  c := w.extractLsb' 40 4
  m := w.extractLsb' 32 8
  imm := w.extractLsb' 0 32

/-- The command word with the given fields (R71). -/
def packFields (f : Fields) : BitVec 64 :=
  f.op ++ f.d ++ f.a ++ f.b ++ f.c ++ f.m ++ f.imm

/-- Why a word matches no row of R75 (30_encoding.md R77). Every one raises `F_ILLEGAL`. -/
inductive DecodeError where
  /-- `op` is not in the table. -/
  | reservedOpcode (op : BitVec 8)
  /-- opcode 0x20 with `m` outside {1, 2, 3}, or 0x1B, 0x1C with `m` outside {0, 1}. -/
  | reservedMode (op m : BitVec 8)
  /-- a listed command with a non-zero bit in a field that must be zero (R76). -/
  | nonzeroField (op : BitVec 8)
  deriving DecidableEq, Repr

/-- The command `i`, if the fields it does not use are zero (R76). -/
def ifZero (op : BitVec 8) (unusedZero : Bool) (i : Instr) : Except DecodeError Instr :=
  if unusedZero then .ok i else .error (.nonzeroField op)

/-- The row of R75 that a word's fields select, and its operands (R79). -/
def decodeFields (f : Fields) : Except DecodeError Instr :=
  match f.op.toNat with
  | 0x01 => ifZero f.op (f.a == 0 && f.b == 0 && f.c == 0 && f.m == 0) (.ldi f.d f.imm)
  | 0x02 => ifZero f.op (f.a == 0 && f.b == 0 && f.c == 0 && f.m == 0 && f.imm == 0) (.ldb f.d)
  | 0x03 => ifZero f.op (f.a == 0 && f.b == 0 && f.c == 0 && f.imm == 0) (.lds f.d f.m)
  | 0x04 => ifZero f.op (f.d == 0 && f.b == 0 && f.c == 0 && f.imm == 0) (.sts f.a f.m)
  | 0x10 => ifZero f.op (f.c == 0 && f.m == 0 && f.imm == 0) (.add f.d f.a f.b)
  | 0x11 => ifZero f.op (f.a == 0 && f.c == 0 && f.m == 0 && f.imm == 0) (.addip f.d f.b)
  | 0x12 => ifZero f.op (f.c == 0 && f.m == 0 && f.imm == 0) (.sub f.d f.a f.b)
  | 0x13 => ifZero f.op (f.a == 0 && f.c == 0 && f.m == 0 && f.imm == 0) (.subip f.d f.b)
  | 0x14 => ifZero f.op (f.c == 0 && f.m == 0 && f.imm == 0) (.mul f.d f.a f.b)
  | 0x15 => ifZero f.op (f.a == 0 && f.c == 0 && f.m == 0 && f.imm == 0) (.mulip f.d f.b)
  | 0x16 => ifZero f.op (f.b == 0 && f.c == 0 && f.m == 0 && f.imm == 0) (.sqr f.d f.a)
  | 0x17 => ifZero f.op (f.b == 0 && f.c == 0 && f.m == 0 && f.imm == 0) (.neg f.d f.a)
  | 0x18 => ifZero f.op (f.b == 0 && f.c == 0 && f.m == 0 && f.imm == 0) (.mov f.d f.a)
  | 0x19 => ifZero f.op (f.b == 0 && f.c == 0 && f.m == 0) (.shl f.d f.a f.imm)
  | 0x1A => ifZero f.op (f.a == 0 && f.b == 0 && f.c == 0 && f.m == 0) (.shlip f.d f.imm)
  | 0x1B =>
    if f.m == 0 then ifZero f.op (f.b == 0 && f.c == 0) (.shr f.d f.a f.imm)
    else if f.m == 1 then ifZero f.op (f.b == 0) (.shro f.d f.c f.a f.imm)
    else .error (.reservedMode f.op f.m)
  | 0x1C =>
    if f.m == 0 then ifZero f.op (f.a == 0 && f.b == 0 && f.c == 0) (.shrip f.d f.imm)
    else if f.m == 1 then ifZero f.op (f.a == 0 && f.b == 0) (.shripo f.d f.c f.imm)
    else .error (.reservedMode f.op f.m)
  | 0x20 =>
    if f.m == 1 then ifZero f.op (f.c == 0 && f.imm == 0) (.divq f.d f.a f.b)
    else if f.m == 2 then ifZero f.op (f.c == 0 && f.imm == 0) (.divr f.d f.a f.b)
    else if f.m == 3 then ifZero f.op (f.imm == 0) (.divqr f.d f.c f.a f.b)
    else .error (.reservedMode f.op f.m)
  | 0x21 => ifZero f.op (f.c == 0 && f.m == 0 && f.imm == 0) (.modinv f.d f.a f.b)
  | 0x30 => ifZero f.op (f.d == 0 && f.a == 0 && f.b == 0 && f.c == 0 && f.m == 0) (.csel f.imm)
  | 0x31 => ifZero f.op (f.d == 0 && f.m == 0 && f.imm == 0) (.cset f.a f.b f.c)
  | 0x32 => ifZero f.op (f.c == 0 && f.m == 0 && f.imm == 0) (.pmk f.d f.a f.b)
  | 0x33 => ifZero f.op (f.b == 0 && f.c == 0 && f.m == 0 && f.imm == 0) (.pgx f.d f.a)
  | 0x34 => ifZero f.op (f.b == 0 && f.c == 0 && f.m == 0 && f.imm == 0) (.pgy f.d f.a)
  | 0x35 => ifZero f.op (f.b == 0 && f.c == 0 && f.m == 0 && f.imm == 0) (.pmov f.d f.a)
  | 0x36 => ifZero f.op (f.d == 0 && f.c == 0 && f.m == 0 && f.imm == 0) (.peq f.a f.b)
  | 0x37 => ifZero f.op (f.d == 0 && f.b == 0 && f.c == 0 && f.m == 0 && f.imm == 0) (.psts f.a)
  | 0x38 => ifZero f.op (f.a == 0 && f.b == 0 && f.c == 0 && f.m == 0 && f.imm == 0) (.pldg f.d)
  | 0x39 => ifZero f.op (f.c == 0 && f.m == 0 && f.imm == 0) (.padd f.d f.a f.b)
  | 0x3A => ifZero f.op (f.b == 0 && f.c == 0 && f.m == 0 && f.imm == 0) (.pdbl f.d f.a)
  | 0x3B => ifZero f.op (f.c == 0 && f.m == 0 && f.imm == 0) (.pmul f.d f.a f.b)
  | _ => .error (.reservedOpcode f.op)

/-- The command a 64-bit word selects, or why it matches no row (30_encoding.md R77, R79). The row is
selected here; R78's check, that two destinations differ, is the first act of the three commands that
have it (`Machine.destinationsDiffer`), with the same effect, `F_ILLEGAL` before any register is
looked at. DEDUCED, safe: log 14. -/
def decode (w : BitVec 64) : Except DecodeError Instr := decodeFields (fieldsOf w)

/-- The instruction the decoder reads from an instruction whose bits are `w`, numbered as
spec/opcode_table.json numbers them. One command word is one 64-bit word handed over whole
(20_memory.md R53), so there is no byte order to apply; bits above `nbits` are 0. -/
def decodeTableWord (nbits w : Nat) : Option Instr :=
  (decode (BitVec.ofNat 64 (w % 2 ^ nbits))).toOption

/-! ### The opcode table of R75, as the spec writes it -/

/-- One row of 30_encoding.md R75: a word `w` is the row's command exactly when
`(w AND mask) = pattern`. -/
structure OpcodeRow where
  mnemonic : String
  pattern : BitVec 64
  mask : BitVec 64
  deriving DecidableEq, Repr

/-- The test of R75. -/
def OpcodeRow.selects (r : OpcodeRow) (w : BitVec 64) : Bool := w &&& r.mask == r.pattern

/-- LDI to STS, as 30_encoding.md R75 writes them. -/
def conversionRows : List OpcodeRow :=
  [
    ⟨"LDI", 0x0100000000000000, 0xFF0FFFFF00000000⟩,
    ⟨"LDB", 0x0200000000000000, 0xFF0FFFFFFFFFFFFF⟩,
    ⟨"LDS", 0x0300000000000000, 0xFF0FFF00FFFFFFFF⟩,
    ⟨"STS", 0x0400000000000000, 0xFFF0FF00FFFFFFFF⟩ ]

/-- ADD to MOV, as 30_encoding.md R75 writes them. -/
def arithmeticRows : List OpcodeRow :=
  [
    ⟨"ADD", 0x1000000000000000, 0xFF000FFFFFFFFFFF⟩,
    ⟨"ADDIP", 0x1100000000000000, 0xFF0F0FFFFFFFFFFF⟩,
    ⟨"SUB", 0x1200000000000000, 0xFF000FFFFFFFFFFF⟩,
    ⟨"SUBIP", 0x1300000000000000, 0xFF0F0FFFFFFFFFFF⟩,
    ⟨"MUL", 0x1400000000000000, 0xFF000FFFFFFFFFFF⟩,
    ⟨"MULIP", 0x1500000000000000, 0xFF0F0FFFFFFFFFFF⟩,
    ⟨"SQR", 0x1600000000000000, 0xFF00FFFFFFFFFFFF⟩,
    ⟨"NEG", 0x1700000000000000, 0xFF00FFFFFFFFFFFF⟩,
    ⟨"MOV", 0x1800000000000000, 0xFF00FFFFFFFFFFFF⟩ ]

/-- SHL to SHRIPO, as 30_encoding.md R75 writes them. -/
def shiftRows : List OpcodeRow :=
  [
    ⟨"SHL", 0x1900000000000000, 0xFF00FFFF00000000⟩,
    ⟨"SHLIP", 0x1A00000000000000, 0xFF0FFFFF00000000⟩,
    ⟨"SHR", 0x1B00000000000000, 0xFF00FFFF00000000⟩,
    ⟨"SHRO", 0x1B00000100000000, 0xFF00F0FF00000000⟩,
    ⟨"SHRIP", 0x1C00000000000000, 0xFF0FFFFF00000000⟩,
    ⟨"SHRIPO", 0x1C00000100000000, 0xFF0FF0FF00000000⟩ ]

/-- DIVQ to MODINV, as 30_encoding.md R75 writes them. -/
def divisionRows : List OpcodeRow :=
  [
    ⟨"DIVQ", 0x2000000100000000, 0xFF000FFFFFFFFFFF⟩,
    ⟨"DIVR", 0x2000000200000000, 0xFF000FFFFFFFFFFF⟩,
    ⟨"DIVQR", 0x2000000300000000, 0xFF0000FFFFFFFFFF⟩,
    ⟨"MODINV", 0x2100000000000000, 0xFF000FFFFFFFFFFF⟩ ]

/-- CSEL to PMUL, as 30_encoding.md R75 writes them. -/
def curveRows : List OpcodeRow :=
  [
    ⟨"CSEL", 0x3000000000000000, 0xFFFFFFFF00000000⟩,
    ⟨"CSET", 0x3100000000000000, 0xFFF000FFFFFFFFFF⟩,
    ⟨"PMK", 0x3200000000000000, 0xFF000FFFFFFFFFFF⟩,
    ⟨"PGX", 0x3300000000000000, 0xFF00FFFFFFFFFFFF⟩,
    ⟨"PGY", 0x3400000000000000, 0xFF00FFFFFFFFFFFF⟩,
    ⟨"PMOV", 0x3500000000000000, 0xFF00FFFFFFFFFFFF⟩,
    ⟨"PEQ", 0x3600000000000000, 0xFFF00FFFFFFFFFFF⟩,
    ⟨"PSTS", 0x3700000000000000, 0xFFF0FFFFFFFFFFFF⟩,
    ⟨"PLDG", 0x3800000000000000, 0xFF0FFFFFFFFFFFFF⟩,
    ⟨"PADD", 0x3900000000000000, 0xFF000FFFFFFFFFFF⟩,
    ⟨"PDBL", 0x3A00000000000000, 0xFF00FFFFFFFFFFFF⟩,
    ⟨"PMUL", 0x3B00000000000000, 0xFF000FFFFFFFFFFF⟩ ]


/-- The thirty-five rows of 30_encoding.md R75. -/
def opcodeTable : List OpcodeRow :=
  conversionRows ++ arithmeticRows ++ shiftRows ++ divisionRows ++ curveRows

/-! ### The encoder -/

/-- The fields of a command's word: its row of R75 with its operands in their fields, every unused
field zero (R76). -/
def Instr.fields : Instr → Fields
  | .ldi d imm => ⟨0x01, d, 0, 0, 0, 0, imm⟩
  | .ldb d => ⟨0x02, d, 0, 0, 0, 0, 0⟩
  | .lds d m => ⟨0x03, d, 0, 0, 0, m, 0⟩
  | .sts a m => ⟨0x04, 0, a, 0, 0, m, 0⟩
  | .add d a b => ⟨0x10, d, a, b, 0, 0, 0⟩
  | .addip d b => ⟨0x11, d, 0, b, 0, 0, 0⟩
  | .sub d a b => ⟨0x12, d, a, b, 0, 0, 0⟩
  | .subip d b => ⟨0x13, d, 0, b, 0, 0, 0⟩
  | .mul d a b => ⟨0x14, d, a, b, 0, 0, 0⟩
  | .mulip d b => ⟨0x15, d, 0, b, 0, 0, 0⟩
  | .sqr d a => ⟨0x16, d, a, 0, 0, 0, 0⟩
  | .neg d a => ⟨0x17, d, a, 0, 0, 0, 0⟩
  | .mov d a => ⟨0x18, d, a, 0, 0, 0, 0⟩
  | .shl d a imm => ⟨0x19, d, a, 0, 0, 0, imm⟩
  | .shlip d imm => ⟨0x1A, d, 0, 0, 0, 0, imm⟩
  | .shr d a imm => ⟨0x1B, d, a, 0, 0, 0, imm⟩
  | .shro d c a imm => ⟨0x1B, d, a, 0, c, 1, imm⟩
  | .shrip d imm => ⟨0x1C, d, 0, 0, 0, 0, imm⟩
  | .shripo d c imm => ⟨0x1C, d, 0, 0, c, 1, imm⟩
  | .divq d a b => ⟨0x20, d, a, b, 0, 1, 0⟩
  | .divr d a b => ⟨0x20, d, a, b, 0, 2, 0⟩
  | .divqr d c a b => ⟨0x20, d, a, b, c, 3, 0⟩
  | .modinv d a b => ⟨0x21, d, a, b, 0, 0, 0⟩
  | .csel imm => ⟨0x30, 0, 0, 0, 0, 0, imm⟩
  | .cset a b c => ⟨0x31, 0, a, b, c, 0, 0⟩
  | .pmk d a b => ⟨0x32, d, a, b, 0, 0, 0⟩
  | .pgx d a => ⟨0x33, d, a, 0, 0, 0, 0⟩
  | .pgy d a => ⟨0x34, d, a, 0, 0, 0, 0⟩
  | .pmov d a => ⟨0x35, d, a, 0, 0, 0, 0⟩
  | .peq a b => ⟨0x36, 0, a, b, 0, 0, 0⟩
  | .psts a => ⟨0x37, 0, a, 0, 0, 0, 0⟩
  | .pldg d => ⟨0x38, d, 0, 0, 0, 0, 0⟩
  | .padd d a b => ⟨0x39, d, a, b, 0, 0, 0⟩
  | .pdbl d a => ⟨0x3A, d, a, 0, 0, 0, 0⟩
  | .pmul d a b => ⟨0x3B, d, a, b, 0, 0, 0⟩

/-- The 64-bit word of a command (30_encoding.md R71, R75, R76). -/
def encode (i : Instr) : BitVec 64 := packFields i.fields

/-- The mnemonic of a command's row in R75. -/
def Instr.mnemonic : Instr → String
  | .ldi _ _ => "LDI" | .ldb _ => "LDB" | .lds _ _ => "LDS" | .sts _ _ => "STS"
  | .add _ _ _ => "ADD" | .addip _ _ => "ADDIP" | .sub _ _ _ => "SUB" | .subip _ _ => "SUBIP"
  | .mul _ _ _ => "MUL" | .mulip _ _ => "MULIP" | .sqr _ _ => "SQR" | .neg _ _ => "NEG"
  | .mov _ _ => "MOV" | .shl _ _ _ => "SHL" | .shlip _ _ => "SHLIP" | .shr _ _ _ => "SHR"
  | .shro _ _ _ _ => "SHRO" | .shrip _ _ => "SHRIP" | .shripo _ _ _ => "SHRIPO"
  | .divq _ _ _ => "DIVQ" | .divr _ _ _ => "DIVR" | .divqr _ _ _ _ => "DIVQR"
  | .modinv _ _ _ => "MODINV" | .csel _ => "CSEL" | .cset _ _ _ => "CSET" | .pmk _ _ _ => "PMK"
  | .pgx _ _ => "PGX" | .pgy _ _ => "PGY" | .pmov _ _ => "PMOV" | .peq _ _ => "PEQ"
  | .psts _ => "PSTS" | .pldg _ => "PLDG" | .padd _ _ _ => "PADD" | .pdbl _ _ => "PDBL"
  | .pmul _ _ _ => "PMUL"

end Sys2Proof
end

