-- ==== Sys2Proof/Machine/Limbs.lean ====
section
/-! DEFINITION. The Integer as a value and as limbs: the bijection of 00_scope.md R10, the canonical form
of 10_state.md R23, and the limb datapath of 41_arithmetic.md R111 to R118. -/

namespace Sys2Proof

/-! ### Values (00_scope.md R10, R12) -/

/-- The magnitude of a limb sequence, least significant limb first (10_state.md R22). -/
def magnitude : List Limb → Nat
  | [] => 0
  | l :: ls => l.toNat + 2 ^ 26 * magnitude ls

/-- `mag(A)` of R10. -/
def Integer.mag (A : Integer) : Nat := magnitude A.limbs

/-- `val(A)` of R10. -/
def Integer.val (A : Integer) : Int := if A.sign then -(A.mag : Int) else (A.mag : Int)

/-- How many bits a magnitude has; 0 for 0. -/
def bitLength (n : Nat) : Nat := if n = 0 then 0 else Nat.log2 n + 1

/-- The number of limbs of `int(z)` with `|z| = n`: `max(1, ceil(bitlength(n) / 26))` (R10). -/
def limbCount (n : Nat) : Nat := max 1 ((bitLength n + 25) / 26)

/-- The first `k` base-2^26 digits of `n`, least significant first. -/
def limbsOf : (k : Nat) → (n : Nat) → List Limb
  | 0, _ => []
  | k + 1, n => BitVec.ofNat 26 n :: limbsOf k (n / 2 ^ 26)

/-- `int(z)` of R10: the one canonical Integer with value `z`. -/
def Integer.ofInt (z : Int) : Integer where
  sign := decide (z < 0)
  limbs := limbsOf (limbCount z.natAbs) z.natAbs

/-- Canonical form (10_state.md R23): at least one limb; the top limb non-zero unless it is the only
one; canonical zero has sign false. -/
def Integer.canonical (A : Integer) : Bool :=
  decide (1 ≤ A.length) &&
  (A.length == 1 || A.limbs.getLastD 0 != 0) &&
  (A.limbs != [0] || !A.sign)

/-- `is_zero(A)` of R12. -/
def Integer.isZero (A : Integer) : Bool := A.mag == 0

/-- `abs(A)` of R12. -/
def Integer.abs (A : Integer) : Integer := Integer.ofInt A.mag

/-- `cmp_mag(A, B)` of R12: how the magnitudes compare. -/
def cmpMag (A B : Integer) : Ordering := compare A.mag B.mag

/-- `int_eq(A, B)` of R12: equality of the values. -/
def Integer.eqVal (A B : Integer) : Bool := A.val == B.val

/-! ### Normalisation (10_state.md R24) -/

/-- A limb sequence without its most significant zero limbs. -/
def trimLimbs : List Limb → List Limb
  | [] => []
  | l :: ls =>
    match trimLimbs ls with
    | [] => if l = 0 then [] else [l]
    | t :: ts => l :: t :: ts

/-- `norm(sign, limbs)` of R24: the limbs trimmed to minimal length, keeping one; the sign of a zero
magnitude forced false. -/
def normalize (sign : Bool) (limbs : List Limb) : Integer :=
  match trimLimbs limbs with
  | [] => { sign := false, limbs := [0] }
  | t :: ts => { sign := sign, limbs := t :: ts }

/-! ### Addition and subtraction of magnitudes (R111, R112) -/

/-- The loop of R111: `as` is the longer sequence, the missing limbs of `bs` count as 0. -/
def addCarry : (as bs : List Limb) → (carry : Nat) → List Limb
  | [], _, carry => if carry = 0 then [] else [BitVec.ofNat 26 carry]
  | a :: as, bs, carry =>
    let t := a.toNat + (bs.headD 0).toNat + carry
    BitVec.ofNat 26 t :: addCarry as bs.tail (t / 2 ^ 26)

/-- `add_mag(A, B)` of R111: the longer operand with the shorter accumulated into it. -/
def addMag (A B : List Limb) : List Limb :=
  if A.length < B.length then addCarry B A 0 else addCarry A B 0

/-- The loop of R112. -/
def subBorrow : (as bs : List Limb) → (borrow : Nat) → List Limb
  | [], _, _ => []
  | a :: as, bs, borrow =>
    let s := (bs.headD 0).toNat + borrow
    if a.toNat < s then BitVec.ofNat 26 (a.toNat + 2 ^ 26 - s) :: subBorrow as bs.tail 1
    else BitVec.ofNat 26 (a.toNat - s) :: subBorrow as bs.tail 0

/-- `sub_mag(A, B)` of R112, used only when `mag(A) >= mag(B)`. -/
def subMag (A B : List Limb) : List Limb := subBorrow A B 0

/-! ### Schoolbook multiplication (R114) -/

/-- The partial products `limb_a[i] * limb_b[k - i]` of column `k`, for `i` in order. -/
def columnProducts (A B : List Limb) (k : Nat) : List Nat :=
  (List.range A.length).filterMap fun i =>
    if i ≤ k ∧ k - i < B.length then some ((A.getD i 0).toNat * (B.getD (k - i) 0).toNat) else none

/-- The columns from `k` on, `n` of them, and then the last carry (R114). -/
def mulColumns (A B : List Limb) : (n k carry : Nat) → List Limb
  | 0, _, carry => [BitVec.ofNat 26 carry]
  | n + 1, k, carry =>
    let ps := columnProducts A B k
    let lo := carry + (ps.map (· % 2 ^ 26)).sum
    let hi := (ps.map (· / 2 ^ 26)).sum
    BitVec.ofNat 26 lo :: mulColumns A B n (k + 1) (hi + lo / 2 ^ 26)

/-- `mul_mag(A, B)` of R114. -/
def mulMag (A B : List Limb) : List Limb := mulColumns A B (A.length + B.length - 1) 0 0

/-! ### Shifts of magnitudes (R115, R116) -/

/-- Stage 2 of R115: every limb shifted left by `r < 26` bits, the bits pushed out carried up. -/
def shlBits (r : Nat) : (ls : List Limb) → (carry : Nat) → List Limb
  | [], carry => if carry = 0 then [] else [BitVec.ofNat 26 carry]
  | l :: ls, carry =>
    let t := l.toNat * 2 ^ r + carry
    BitVec.ofNat 26 t :: shlBits r ls (t / 2 ^ 26)

/-- `shl_mag(A, n)` of R115: a whole-limb shift, then a sub-limb shift. The zero limbs of stage 1 are
untouched by stage 2, whose loop starts above them. -/
def shlMag (A : List Limb) (n : Nat) : List Limb :=
  List.replicate (n / 26) 0 ++ (if n % 26 = 0 then A else shlBits (n % 26) A 0)

/-- Stage 2 of R116, from the top limb down: the shifted limbs, and the low `r` bits of the lowest one,
which the limb below receives at its top. -/
def shrBits (r : Nat) : List Limb → List Limb × Nat
  | [] => ([], 0)
  | l :: ls =>
    let above := shrBits r ls
    (BitVec.ofNat 26 (l.toNat / 2 ^ r + above.2 * 2 ^ (26 - r)) :: above.1, l.toNat % 2 ^ r)

/-- The first component of `shr_mag(A, n)` of R116: the shifted limbs. -/
def shrKept (A : List Limb) (n : Nat) : List Limb :=
  let kept := if n / 26 < A.length then A.drop (n / 26) else [0]
  if n % 26 = 0 then kept else (shrBits (n % 26) kept).1

/-- The second component of `shr_mag(A, n)` of R116: the bits shifted out. -/
def shrOut (A : List Limb) (n : Nat) : List Limb :=
  let whole := A.take (n / 26)
  let part := if n % 26 ≠ 0 ∧ n / 26 < A.length then [A.getD (n / 26) 0 &&& BitVec.ofNat 26 (2 ^ (n % 26) - 1)] else []
  match whole ++ part with
  | [] => [0]
  | o :: os => o :: os

/-! ### The Integer operations over them (R119 to R133) -/

/-- The result of ADD (R119). -/
def Integer.add (A B : Integer) : Integer :=
  if A.sign = B.sign then normalize A.sign (addMag A.limbs B.limbs)
  else
    match cmpMag A B with
    | .eq => Integer.ofInt 0
    | .gt => normalize A.sign (subMag A.limbs B.limbs)
    | .lt => normalize B.sign (subMag B.limbs A.limbs)

/-- The result of NEG (R126): the limbs copied, the sign flipped, zero kept canonical. -/
def Integer.neg (A : Integer) : Integer := normalize (!A.sign) A.limbs

/-- The result of SUB (R121). -/
def Integer.sub (A B : Integer) : Integer :=
  if A.sign ≠ B.sign ∨ A.sign then A.add B.neg
  else
    match cmpMag A B with
    | .lt => normalize true (subMag B.limbs A.limbs)
    | _ => normalize false (subMag A.limbs B.limbs)

/-- The result of MUL (R123): the sign is the exclusive or of the signs. -/
def Integer.mul (A B : Integer) : Integer := normalize (A.sign ^^ B.sign) (mulMag A.limbs B.limbs)

/-- The result of SQR (R125). -/
def Integer.square (A : Integer) : Integer := normalize false (mulMag A.limbs A.limbs)

/-- The result of SHL (R128); "zero shifted by any count is canonical zero". The sign is kept (R117). -/
def Integer.shl (A : Integer) (n : Nat) : Integer :=
  if A.isZero then Integer.ofInt 0 else normalize A.sign (shlMag A.limbs n)

/-- The result of SHR (R130): the magnitude shifted, the sign kept (R117). -/
def Integer.shr (A : Integer) (n : Nat) : Integer := normalize A.sign (shrKept A.limbs n)

/-- The side output of SHRO and SHRIPO (R131): never negative (R117). -/
def Integer.shiftedOut (A : Integer) (n : Nat) : Integer := normalize false (shrOut A.limbs n)

/-- How many limbs `A` shifted left by `n` needs (R128): 1 for zero, else
`ceil((bitlength(mag(A)) + n) / 26)`. -/
def Integer.shlLength (A : Integer) (n : Nat) : Nat :=
  if A.isZero then 1 else (bitLength A.mag + n + 25) / 26

end Sys2Proof
end

