-- ==== Sys2Proof/Machine/Divider.lean ====
section
/-! DEFINITION. The division engine (42_division.md): short division, long division with quotient-digit
estimation, and the sign contract of R156. -/

namespace Sys2Proof

/-! ### Short division (R154) -/

/-- The scan of R154 from the top limb down: the quotient limbs, and the running remainder that the
limb below receives. -/
def shortDivScan (dv : Nat) : List Limb → List Limb × Nat
  | [] => ([], 0)
  | l :: ls =>
    let above := shortDivScan dv ls
    let t := above.2 * 2 ^ 26 + l.toNat
    (BitVec.ofNat 26 (t / dv) :: above.1, t % dv)

/-- `short_div(A, dv)` of R154, with `1 <= dv < 2^26`: the quotient, and the remainder as a number. -/
def shortDiv (A : List Limb) (dv : Nat) : Integer × Nat :=
  let r := shortDivScan dv A
  (normalize false r.1, r.2)

/-! ### Long division (R155) -/

/-- The quotient-digit estimate of R155 for running remainder `R` and divisor `B`, both as limbs:
the limb shift `s` and the estimate `qh`. -/
def quotientEstimate (R B : List Limb) : Nat × Nat :=
  let lr := R.length
  let lb := B.length
  let bt := (B.getD (lb - 1) 0).toNat
  let rt := (R.getD (lr - 1) 0).toNat
  if lr > lb ∧ rt ≤ bt then
    (lr - lb - 1, min ((rt * 2 ^ 26 + (R.getD (lr - 2) 0).toNat) / (bt + 1)) (2 ^ 26 - 1))
  else
    (lr - lb, if rt / (bt + 1) = 0 then 1 else rt / (bt + 1))

/-- One pass of R155's loop: the estimate times the shifted divisor, subtracted from the running
remainder and added to the quotient. -/
def longDivPass (B R Q : Integer) : Integer × Integer :=
  let e := quotientEstimate R.limbs B.limbs
  let qh := (Integer.ofInt e.2).limbs
  let T := shlMag (mulMag qh B.limbs) (26 * e.1)
  (normalize false (subMag R.limbs T), normalize false (addMag Q.limbs (shlMag qh (26 * e.1))))

/-- The loop of R155. Every pass lowers the running remainder by at least `mag(B) >= 1`, so `mag(A) + 1`
is fuel enough (log 18). -/
def longDivLoop (B : Integer) : (fuel : Nat) → (R Q : Integer) → Integer × Integer
  | 0, R, Q => (Q, R)
  | fuel + 1, R, Q =>
    match cmpMag R B with
    | .lt => (Q, R)
    | _ =>
      let n := longDivPass B R Q
      longDivLoop B fuel n.1 n.2

/-- `long_div(A, B)` of R155, on magnitudes; `B` has two limbs or more and `mag(A) >= mag(B)`. -/
def longDiv (A B : Integer) : Integer × Integer :=
  longDivLoop B (A.mag + 1) A.abs (Integer.ofInt 0)

/-! ### The magnitude division and the sign contract -/

/-- `divmod_mag(A, B)` of R152 for `mag(B) > 0`, by the three cases R153, R154, R155. -/
def divmodMag (A B : Integer) : Integer × Integer :=
  if cmpMag A B = .lt then (Integer.ofInt 0, A.abs)
  else if B.length = 1 then
    let r := shortDiv A.limbs (B.limbs.getD 0 0).toNat
    (r.1, Integer.ofInt r.2)
  else longDiv A B

/-- `divrem(A, B)` of R156, `mag(B) > 0`: quotient and remainder under the source's sign contract, which
is neither floor nor truncating nor Euclidean (R160). -/
def divrem (A B : Integer) : Integer × Integer :=
  let qr := divmodMag A.abs B.abs
  if A.sign = B.sign then qr
  else if !A.sign && B.sign then (qr.1.neg, qr.2)
  else if qr.2.isZero then (qr.1.neg, Integer.ofInt 0)
  else (qr.1.neg, Integer.ofInt (B.val - qr.2.val))

end Sys2Proof
end

