-- ==== Sys2Proof/Machine/Field.lean ====
section
/-! DEFINITION. Arithmetic on the internal temporaries of MODINV and of the curve unit, which no register
holds and no capacity limit applies to (10_state.md R27, R36): exact integers, as 00_scope.md R10 allows
(log 17). The modular inverse (43_modinv.md R171) and the group law (46_curve.md R206, R208, R211). -/

namespace Sys2Proof

/-- `rem(X, p)` of 42_division.md R156 on values, for `p ≠ 0`: what DIVR gives. -/
def remVal (x p : Int) : Int :=
  let rm : Nat := x.natAbs % p.natAbs
  if x < 0 ∧ 0 < p then (if rm = 0 then 0 else p - rm) else rm

/-- SHR with count 1 on values (41_arithmetic.md R117): the magnitude halved, the sign kept. -/
def halfVal (x : Int) : Int := Int.tdiv x 2

/-- The coefficient correction of 43_modinv.md R171: halved directly if even, or after adding `p`. -/
def halveCoefficient (p x : Int) : Int := if x % 2 = 0 then halfVal x else halfVal (x + p)

/-- The inner loops of R171: halve `u` and its coefficient while `u` is even. A non-zero `u` is halved
fewer than `u` times, so `u` is fuel enough. -/
def stripTwos (p : Int) : (fuel : Nat) → (u : Nat) → (x : Int) → Nat × Int
  | 0, u, x => (u, x)
  | fuel + 1, u, x =>
    if u % 2 = 0 then stripTwos p fuel (u / 2) (halveCoefficient p x) else (u, x)

/-- The outer loop of R171. The sum `u + v` falls on every pass (R177), so `u + v` is fuel enough
(log 18). -/
def inverseLoop (p : Int) : (fuel : Nat) → (u v : Nat) → (x1 x2 : Int) → Int
  | 0, _, _, _, _ => 0
  | fuel + 1, u, v, x1, x2 =>
    if 1 < u ∧ 1 < v then
      let a := stripTwos p u u x1
      let b := stripTwos p v v x2
      if b.1 ≤ a.1 then inverseLoop p fuel (a.1 - b.1) b.1 (a.2 - b.2) b.2
      else inverseLoop p fuel a.1 (b.1 - a.1) a.2 (b.2 - a.2)
    else if u = 1 then remVal x1 p
    else remVal x2 p

/-- `inv(A, Pm)` of R171, on values, under the preconditions of R170. The accumulators start at 1 and 0:
PRESUMED, the spec's own general knowledge (G2; log 16). -/
def inverseVal (a p : Int) : Int :=
  let u := (remVal a p).natAbs
  let v := p.natAbs
  inverseLoop p (u + v + 1) u v 1 0

/-- The preconditions of 43_modinv.md R170: the modulus positive and odd, the value coprime to it. -/
def inverseDefined (a p : Int) : Bool :=
  decide (0 < p) && decide (p % 2 = 1) && (Nat.gcd a.natAbs p.natAbs == 1)

/-- A Point as a pair of values. -/
abbrev PointVal := Int × Int

/-- `padd` of 46_curve.md R206, when it is defined: the x coordinates differ (R207, R215; 90_conflicts.md C7)
and the inverse is defined (R207, R213). The first follows from the second but for the modulus 1, where C7
decides. DEDUCED, log 27. -/
def addPoints (P Q : PointVal) (p : Int) : Option PointVal :=
  let dx := Q.1 - P.1
  let dy := Q.2 - P.2
  if dx ≠ 0 ∧ inverseDefined dx p then
    let lam := remVal (dy * inverseVal dx p) p
    let xr := remVal (lam * lam - P.1 - Q.1) p
    some (xr, remVal (lam * (P.1 - xr) - P.2) p)
  else none

/-- `pdbl` of 46_curve.md R208, when it is defined (R209's pseudocode, R213); the Point (0, 0) doubles to
itself (R210). For the modulus 1 every Point has a double, (0, 0), though R210's prose leaves every other
Point whose `y` is a multiple of `p` undefined. DESIGN CHOICE, log 28, unsafe. -/
def doublePoint (P : PointVal) (p : Int) : Option PointVal :=
  if P.1 = 0 ∧ P.2 = 0 then some (0, 0)
  else if inverseDefined (2 * P.2) p then
    let lam := remVal (3 * (P.1 * P.1) * inverseVal (2 * P.2) p) p
    let xr := remVal (lam * lam - 2 * P.1) p
    some (xr, remVal (lam * (P.1 - xr) - P.2) p)
  else none

/-- The loop of 46_curve.md R211 for the bits of `k` below bit `j`: double, and add `Q` for a 1 bit,
the accumulator as the first operand. `none` if a step is undefined. -/
def multiplyLoop (k : Nat) (Q : PointVal) (p : Int) : (j : Nat) → (acc : PointVal) → Option PointVal
  | 0, acc => some acc
  | j + 1, acc => do
    let acc2 ← doublePoint acc p
    let acc3 ← if k.testBit j then addPoints acc2 Q p else some acc2
    multiplyLoop k Q p j acc3

/-- `pmul(k, Q, p)` of 46_curve.md R211, for `k >= 1`: left-to-right double-and-add, the leading 1 bit
consumed by starting at `Q`. -/
def multiplyPoint (k : Nat) (Q : PointVal) (p : Int) : Option PointVal :=
  multiplyLoop k Q p (bitLength k - 1) Q

end Sys2Proof
end

