-- ==== Sys2Proof/Config.lean ====
section
/-! DEFINITION. What an instance of the hardware fixes (00_scope.md R7, 10_state.md R37), and the free
values: what the spec leaves unspecified and no definition of this model can see. -/

namespace Sys2Proof

/-- The `OPEN` parameters of 00_scope.md R7; `none` is "taken as unbounded". `HOST_MAP` is read by no
rule and is not here (20_memory.md R56). A step never changes them. Log 4. -/
structure Config where
  /-- `MAXLIMBS`: the most limbs an Integer register can hold. -/
  maxLimbs : Option Nat
  /-- `IOBUF_SIZE`: the bytes in the I/O buffer. -/
  iobufSize : Option Nat
  deriving DecidableEq, Repr

/-- The constraints of U9 (93_implementation_defined.md): `MAXLIMBS >= 2`, `IOBUF_SIZE >= 1`, either
may be infinite. -/
def Config.wf (c : Config) : Bool :=
  (c.maxLimbs.all fun m => decide (2 ≤ m)) && (c.iobufSize.all fun n => decide (1 ≤ n))

/-- DESIGN CHOICE (log 4, unsafe): the instance `State.reset` speaks of, with both parameters
unbounded, which R7 allows. Claims range over every instance through `State.cfg`. -/
def Config.unbounded : Config := { maxLimbs := none, iobufSize := none }

/-! ### Free values

None of these has a body: nothing in Lean can evaluate one or prove a value of it. The first argument
is the number of resets so far, so that no value need be the same after another reset (R261). -/

/-- The byte at an offset of `IOBUF` that nothing has written since the last reset (20_memory.md R62,
U5): arguments `resets`, offset. Log 3, safe. -/
opaque Config.unwrittenByte : Nat → Nat → Byte

/-- Whether a command on an undefined input ever completes (43_modinv.md R175, 46_curve.md R213, U1 to
U4): arguments `resets`, `draws`. Log 5, safe. -/
opaque Config.undefinedCompletes : Nat → Nat → Bool

/-- The value an undefined input leaves in its destination when the command completes (R175, R213):
arguments `resets`, `draws`, and 0 for an Integer or an x coordinate, 1 for a y coordinate. Log 5, safe. -/
opaque Config.undefinedInteger : Nat → Nat → Nat → Int

/-- What `H_RDBUF` and `H_RDLEN` return while `BUSY = 1` (20_memory.md R58, U8): arguments `resets`,
the number of replies given so far. Log 11, safe. -/
opaque Config.busyReadValue : Nat → Nat → BitVec 32

/-- What the 32-bit `IOLEN` holds after a string of 2^32 characters or more, possible only in an
unbounded buffer and given no value by the spec: argument the length. Log 13, safe. -/
opaque Config.overlongLength : Nat → BitVec 32

end Sys2Proof
end

