-- ==== Sys2Proof/Machine/State.lean ====
section
/-! DEFINITION. The state of the machine: crypty CORE's whole architectural state (10_state.md R21), the
HOST's side of the interface, and the machine right after reset. -/

namespace Sys2Proof.Machine

/-- The causes of a hardware fault (60_exceptions.md R231). Raising one is the fault entry of R240, a
next state of the machine; it is no stop of the model. -/
inductive FaultCode where
  /-- `F_DIVZERO`: a zero divisor or modulus. -/
  | divZero
  /-- `F_BASE`: a base other than 10 or 16. -/
  | base
  /-- `F_NODIGITS`: no digit, or no byte, to read. -/
  | noDigits
  /-- `F_BADDIGIT`: a character that is not a digit of the base. -/
  | badDigit
  /-- `F_RANGE`: a scalar outside (0, n]. -/
  | range
  /-- `F_UNINIT`: an invalid source register. -/
  | uninit
  /-- `F_ILLEGAL`: an illegal command word or operand combination. -/
  | illegal
  /-- `F_CAPACITY`: a result or string too long. -/
  | capacity
  /-- `F_NOCURVE`: no curve context, or no such parameter set. -/
  | noCurve
  deriving DecidableEq, Repr

/-- The fields of `STATUS` that are stored (10_state.md R31); the reserved bits read as zero and have no
storage. -/
structure Status where
  /-- bit 0 -/
  busy : Bool
  /-- bit 1 -/
  eq : Bool
  /-- bits 7:4 -/
  fault : BitVec 4
  deriving DecidableEq, Repr

/-- The I/O buffer `IOBUF` (10_state.md R34): the bytes written since the last reset, as (offset, byte)
pairs with offsets strictly rising. An offset that is not listed is one that nothing has written; what
reading it gives is `State.readByte`'s business (log 3). -/
structure Memory where
  cells : List Host.Cell
  deriving DecidableEq, Repr

/-- The curve context `CURVE` while it is valid (10_state.md R30). -/
structure CurveContext where
  /-- the field modulus -/
  p : Integer
  /-- the subgroup order -/
  n : Integer
  /-- the base point -/
  g : Point
  deriving DecidableEq, Repr

/-- The seven actions of the HOST (20_memory.md R57). -/
inductive HostAction where
  /-- `H_RESET` -/
  | reset
  /-- `H_WRBUF(k, byte)` -/
  | wrBuf (k : Nat) (b : Byte)
  /-- `H_WRLEN(n)` -/
  | wrLen (n : BitVec 32)
  /-- `H_RDBUF(k)` -/
  | rdBuf (k : Nat)
  /-- `H_RDLEN` -/
  | rdLen
  /-- `H_RDSTATUS` -/
  | rdStatus
  /-- `H_ISSUE(w)` -/
  | issue (w : BitVec 64)
  deriving DecidableEq, Repr

/-- One turn of the schedule: the HOST acts, or the CORE is let go (20_memory.md R59: every access is
ordered by the order of host actions and `C_EXEC` transitions). DESIGN CHOICE, log 8. -/
inductive HostTurn where
  | act (a : HostAction)
  | core
  deriving DecidableEq, Repr

/-- A value a host read returned (20_memory.md R57). -/
inductive HostReply where
  | byte (b : Byte)
  | length (n : BitVec 32)
  | status (w : BitVec 32)
  deriving DecidableEq, Repr

/-- The state. The fields from `r` to `iolen` are the whole architectural state of 10_state.md R21;
`cfg` is the instance's parameters (R7, R37), which no step changes; the last four are the model's own.
A register with its valid bit clear is `none`: it holds no value (R26, U7; log 1). -/
structure State where
  /-- `MAXLIMBS` and `IOBUF_SIZE` of this instance (log 4). -/
  cfg : Config
  /-- Integer registers `R0` to `R15` (R25). -/
  r : Vector (Option Integer) 16
  /-- Point registers `P0` to `P15` (R28). -/
  p : Vector (Option Point) 16
  /-- `CURVE` (R30). -/
  curve : Option CurveContext
  /-- `STATUS` (R31). -/
  status : Status
  /-- `CMDREG` (R32). -/
  cmdreg : BitVec 64
  /-- `IOBUF` (R34). -/
  iobuf : Memory
  /-- `IOLEN` (R34). -/
  iolen : BitVec 32
  /-- The HOST's pending turns, next first; when none is left the CORE moves (log 8). -/
  turns : List HostTurn
  /-- What the HOST's reads have returned, oldest first (log 8). -/
  replies : List HostReply
  /-- How many times the block has been reset: an index of free values (log 20). -/
  resets : Nat
  /-- How many undefined results have been written since the last reset: an index of free values (log 5). -/
  draws : Nat
  deriving DecidableEq, Repr

/-- Why the model itself stops. -/
inductive Fault where
  /-- Raised by `State.memRead` and `State.memWrite` when they are used outside the domain 20_memory.md
  R52 gives them, on an offset at or past `IOBUF_SIZE`, which does not exist. Safe: the model stops.
  Every command checks first, so no step raises it. -/
  | offsetOutsideBuffer (offset : Nat)
  deriving DecidableEq, Repr

/-- Why the model gives no meaning. -/
inductive Refusal where
  /-- Raised only by an arm of `exec` whose command has no meaning yet. Safe: nothing can be proved of
  it. No arm raises it. -/
  | notModelled (mnemonic : String)
  deriving DecidableEq, Repr

/-- The state right after reset (10_state.md R38, 70_reset_and_hazards.md R260) of an instance with the
given parameters. `CMDREG` is unspecified there: zero is the model's (DESIGN CHOICE, log 2, unsafe). -/
def State.resetWith (c : Config) : State where
  cfg := c
  r := Vector.replicate 16 none
  p := Vector.replicate 16 none
  curve := none
  status := { busy := false, eq := false, fault := 0 }
  cmdreg := 0
  iobuf := { cells := [] }
  iolen := 0
  turns := []
  replies := []
  resets := 0
  draws := 0

/-- The machine right after reset. The spec leaves the instance's parameters open; this one takes both
as unbounded (DESIGN CHOICE, log 4, unsafe). -/
def State.reset : State := State.resetWith Config.unbounded

end Sys2Proof.Machine
end

