-- ==== Sys2Proof/Machine/Ops.lean ====
section
/-! DEFINITION. The named operations over registers and memory, fault entry, and completion. -/

namespace Sys2Proof

/-! ### The capacity of an instance's registers -/

/-- Whether `k` limbs are at most `MAXLIMBS` (10_state.md R27). -/
def Config.admits (c : Config) (k : Nat) : Bool :=
  match c.maxLimbs with
  | none => true
  | some m => decide (k ≤ m)

/-- Whether an Integer fits an architectural register (R27). -/
def Config.fits (c : Config) (A : Integer) : Bool := c.admits A.length

/-- Whether both coordinates fit (R29). -/
def Config.fitsPoint (c : Config) (A : Point) : Bool := c.fits A.x && c.fits A.y

/-- A free value cut to what a register of the instance holds: any Integer of at most `MAXLIMBS` limbs
may result, and no `F_CAPACITY`, since `FAULT` stays 0 (60_exceptions.md R250). Log 6. -/
def Config.cutToCapacity (c : Config) (z : Int) : Int :=
  match c.maxLimbs with
  | none => z
  | some m =>
    let k : Nat := z.natAbs % 2 ^ (26 * m)
    if z < 0 then -(k : Int) else (k : Int)

end Sys2Proof

namespace Sys2Proof.Machine

open Host (Outcome)

/-! ### How a command ends -/

/-- What ends a command before its results are written. -/
inductive Stop where
  /-- A hardware fault: the fault entry of 60_exceptions.md R240, a next state. -/
  | trap (c : FaultCode)
  /-- An undefined input on which the command never completes: `BUSY` stays 1 and nothing changes
  (20_memory.md R57, 70_reset_and_hazards.md R269), a next state. Log 5, 7. -/
  | stuck
  /-- The model itself stops. -/
  | halt (f : Fault)
  deriving DecidableEq, Repr

/-- The value `STATUS.FAULT` takes for a cause (60_exceptions.md R231). -/
def FaultCode.code : FaultCode → BitVec 4
  | .divZero => 1
  | .base => 2
  | .noDigits => 3
  | .badDigit => 4
  | .range => 5
  | .uninit => 6
  | .illegal => 7
  | .capacity => 8
  | .noCurve => 9

/-- Fault entry, the whole of it (60_exceptions.md R240): `FAULT` gets the code, `BUSY` is cleared,
nothing else changes. There is no saved pc, no vector and no mode (R240, R244). -/
def State.faultEntry (s : State) (c : FaultCode) : State :=
  { s with status := { s.status with busy := false, fault := c.code } }

/-- Completion (10_state.md R20): `BUSY` is cleared. -/
def State.complete (s : State) : State := { s with status := { s.status with busy := false } }

/-- The end of the command that started in `s`: its results are in place and it completes, or it enters
the fault state with nothing written (R240, R241), or it stays busy for ever (R269). -/
def finish (s : State) (result : Except Stop State) : Outcome State Fault Refusal :=
  match result with
  | .ok t => .next t.complete
  | .error (.trap c) => .next (s.faultEntry c)
  | .error .stuck => .next s
  | .error (.halt f) => .fault f

/-- The way out of a fault, and out of anything else (60_exceptions.md R242, 70_reset_and_hazards.md
R260): every architectural field at its reset value. The parameters are the instance's and stay; the
HOST's turns and replies are the HOST's; `resets` advances, so that no free value need be what it was
before (log 20). -/
def State.hostReset (s : State) : State :=
  { State.resetWith s.cfg with
    turns := s.turns
    replies := s.replies
    resets := s.resets + 1 }

/-! ### Integer and Point registers -/

/-- The Integer register `R[i]`; `none` while its valid bit is 0 (10_state.md R25, R26). -/
def State.rReg (s : State) (i : RegIdx) : Option Integer := s.r[i.toNat]'i.isLt

/-- The Point register `P[i]`; `none` while its valid bit is 0 (R28, R29). -/
def State.pReg (s : State) (i : RegIdx) : Option Point := s.p[i.toNat]'i.isLt

/-- `R[i]` with a value stored and its valid bit set (R26). -/
def State.setR (s : State) (i : RegIdx) (A : Integer) : State :=
  { s with r := s.r.set i.toNat (some A) i.isLt }

/-- `P[i]` with a value stored and its valid bit set (R29). -/
def State.setP (s : State) (i : RegIdx) (A : Point) : State :=
  { s with p := s.p.set i.toNat (some A) i.isLt }

/-- `R[i]` as a source: `F_UNINIT` if it is not valid (R26). -/
def State.readR (s : State) (i : RegIdx) : Except Stop Integer :=
  match s.rReg i with
  | some A => .ok A
  | none => .error (.trap .uninit)

/-- `P[i]` as a source: `F_UNINIT` if it is not valid (R29). -/
def State.readP (s : State) (i : RegIdx) : Except Stop Point :=
  match s.pReg i with
  | some A => .ok A
  | none => .error (.trap .uninit)

/-- `R[i] <- v`: `F_CAPACITY` if `v` is too long (R27). -/
def State.writeR (s : State) (i : RegIdx) (A : Integer) : Except Stop State :=
  if s.cfg.fits A then .ok (s.setR i A) else .error (.trap .capacity)

/-- `P[i] <- (x, y)`: `F_CAPACITY` if a coordinate is too long (R29). -/
def State.writeP (s : State) (i : RegIdx) (A : Point) : Except Stop State :=
  if s.cfg.fitsPoint A then .ok (s.setP i A) else .error (.trap .capacity)

/-- The curve context as a source: `F_NOCURVE` if it is not valid (10_state.md R30). -/
def State.readCurve (s : State) : Except Stop CurveContext :=
  match s.curve with
  | some k => .ok k
  | none => .error (.trap .noCurve)

/-- `CURVE` with a context stored and its valid bit set. -/
def State.setCurve (s : State) (k : CurveContext) : State := { s with curve := some k }

/-- `CURVE` written whole (R30), each Integer checked against the capacity (R27). -/
def State.writeCurve (s : State) (k : CurveContext) : Except Stop State :=
  if s.cfg.fits k.p && s.cfg.fits k.n && s.cfg.fitsPoint k.g then .ok (s.setCurve k)
  else .error (.trap .capacity)

/-- 30_encoding.md R78: the two destinations of one command must differ, else `F_ILLEGAL`, before any
register is looked at (60_exceptions.md R233). -/
def destinationsDiffer (d c : RegIdx) : Except Stop Unit :=
  if d = c then .error (.trap .illegal) else .ok ()

/-! ### The I/O buffer (20_memory.md R50 to R52) -/

/-- Whether an offset exists (R50). -/
def State.inBuffer (s : State) (k : Nat) : Bool :=
  match s.cfg.iobufSize with
  | none => true
  | some n => decide (k < n)

/-- Whether `n` bytes from offset 0 exist: `n <= IOBUF_SIZE` (R52). -/
def State.bufferHolds (s : State) (n : Nat) : Bool :=
  match s.cfg.iobufSize with
  | none => true
  | some size => decide (n ≤ size)

/-- The byte written at an offset since the last reset, if any. -/
def lookupCell (k : Nat) : List Host.Cell → Option Byte
  | [] => none
  | c :: cs => if c.1 = k then some c.2 else lookupCell k cs

/-- The cells with a byte stored at an offset, offsets kept strictly rising. -/
def insertCell (k : Nat) (b : Byte) : List Host.Cell → List Host.Cell
  | [] => [(k, b)]
  | c :: cs =>
    if k < c.1 then (k, b) :: c :: cs
    else if k = c.1 then (k, b) :: cs
    else c :: insertCell k b cs

/-- Strictly rising offsets. -/
def risingFrom (low : Nat) : List Host.Cell → Bool
  | [] => true
  | c :: cs => decide (low ≤ c.1) && risingFrom (c.1 + 1) cs

/-- The canonical form of the buffer: offsets strictly rising. A listed byte is one that was written and
an unlisted offset one that was not, so no entry equals what an unlisted offset is (log 3). -/
def Memory.wf (m : Memory) : Bool := risingFrom 0 m.cells

/-- The byte at an offset (R52, R62): the last one written, or, where nothing has been written since
the last reset, a free value. -/
def State.readByte (s : State) (k : Nat) : Byte :=
  (lookupCell k s.iobuf.cells).getD (Config.unwrittenByte s.resets k)

/-- `IOBUF[k] <- b`. -/
def State.setByte (s : State) (k : Nat) (b : Byte) : State :=
  { s with iobuf := { cells := insertCell k b s.iobuf.cells } }

/-- `IOBUF[k], IOBUF[k+1], ...` set to the bytes in order. -/
def State.setBytes (s : State) (k : Nat) : List Byte → State
  | [] => s
  | b :: bs => (s.setByte k b).setBytes (k + 1) bs

/-- `MemRead(addr, n)` of R52, defined for `addr + n <= IOBUF_SIZE`. -/
def State.memRead (s : State) (addr n : Nat) : Except Stop (List Byte) :=
  if s.bufferHolds (addr + n) then .ok ((List.range n).map fun k => s.readByte (addr + k))
  else .error (.halt (.offsetOutsideBuffer (addr + n - 1)))

/-- `MemWrite(addr, n, v)` of R52, defined for `addr + n <= IOBUF_SIZE`. -/
def State.memWrite (s : State) (addr : Nat) (v : List Byte) : Except Stop State :=
  if s.bufferHolds (addr + v.length) then .ok (s.setBytes addr v)
  else .error (.halt (.offsetOutsideBuffer (addr + v.length - 1)))

/-- `IOLEN <- n`. -/
def State.setLength (s : State) (n : BitVec 32) : State := { s with iolen := n }

/-- The length of a string as `IOLEN` holds it. A string of 2^32 characters or more, possible only in an
unbounded buffer, has a length the 32 bits cannot hold, and the spec gives none: a free value
(DESIGN CHOICE, log 13, safe). -/
def lengthWord (L : Nat) : BitVec 32 :=
  if L < 2 ^ 32 then BitVec.ofNat 32 L else Config.overlongLength L

/-- The current content of the buffer, for LDB and LDS: `F_CAPACITY` if `IOLEN > IOBUF_SIZE`
(40_construct_parse.md R90). -/
def State.loadContent (s : State) : Except Stop (List Byte) :=
  if s.bufferHolds s.iolen.toNat then s.memRead 0 s.iolen.toNat else .error (.trap .capacity)

/-- A string put into the buffer, and its length into `IOLEN`, for STS and PSTS: `F_CAPACITY` if it is
longer than the buffer (44_format.md R181, 45_point.md R196). -/
def State.storeText (s : State) (text : List Byte) : Except Stop State :=
  if s.bufferHolds text.length then do
    let t ← s.memWrite 0 text
    .ok (t.setLength (lengthWord text.length))
  else .error (.trap .capacity)

/-! ### Undefined inputs (43_modinv.md R175, 46_curve.md R213, 93_implementation_defined.md U1 to U4) -/

/-- The free Integer of the next undefined result. -/
def State.freeInteger (s : State) (part : Nat) : Integer :=
  Integer.ofInt (s.cfg.cutToCapacity (Config.undefinedInteger s.resets s.draws part))

/-- An undefined input of a command with an Integer destination: it never completes, or it completes with
any value (R175). -/
def State.undefinedR (s : State) (d : RegIdx) : Except Stop State :=
  if Config.undefinedCompletes s.resets s.draws then
    .ok { s.setR d (s.freeInteger 0) with draws := s.draws + 1 }
  else .error .stuck

/-- An undefined input of a command with a Point destination (R213). -/
def State.undefinedP (s : State) (d : RegIdx) : Except Stop State :=
  if Config.undefinedCompletes s.resets s.draws then
    .ok { s.setP d { x := s.freeInteger 0, y := s.freeInteger 1 } with draws := s.draws + 1 }
  else .error .stuck

end Sys2Proof.Machine
end

