-- ==== Sys2Proof/Machine/Operands.lean ====
section
/-! DEFINITION. Every operand form (30_encoding.md R72 to R74): the register operands are `State.readR`
and `State.readP` of Ops; here the immediates, the base field, and Points as values. -/

namespace Sys2Proof.Machine

/-- The immediate of LDI: signed, `sext_32(imm)` (R73). -/
def signedImm (imm : BitVec 32) : Int := imm.toInt

/-- The immediate of the shifts and of CSEL: unsigned, `zext_32(imm)` (R73). -/
def unsignedImm (imm : BitVec 32) : Nat := imm.toNat

/-- The number base of LDS and STS: 0 means the default, 10 (R74). -/
def numberBase (m : BitVec 8) : Nat := if m = 0 then 10 else m.toNat

/-- The check of 44_format.md R181 on the base: 10 or 16, else `F_BASE`. -/
def formatBase (m : BitVec 8) : Except Stop Nat :=
  if numberBase m = 10 ∨ numberBase m = 16 then .ok (numberBase m) else .error (.trap .base)

/-- The two checks of 40_construct_parse.md R93 on the base, in the source's order: above 16, then
neither 10 nor 16. -/
def parseBase (m : BitVec 8) : Except Stop Nat :=
  if numberBase m > 16 then .error (.trap .base)
  else if numberBase m ≠ 10 ∧ numberBase m ≠ 16 then .error (.trap .base)
  else .ok (numberBase m)

/-- The coordinates of a Point as the Integers they are; nothing is reduced (46_curve.md R205). -/
def pointVal (P : Point) : PointVal := (P.x.val, P.y.val)

/-- The Point with the given coordinates, canonical (10_state.md R24). -/
def pointOf (v : PointVal) : Point := { x := Integer.ofInt v.1, y := Integer.ofInt v.2 }

end Sys2Proof.Machine
end

