-- ==== Sys2Proof/Machine/Arithmetic.lean ====
section
/-! DEFINITION. The arithmetic engine's commands (41_arithmetic.md R119 to R127). Sources are read in the
order of R110, all of them before the result is written (R135). -/

namespace Sys2Proof.Machine

open Host (Outcome)

/-- A command with two Integer sources, first `a` then `b`, and the Integer destination `d`. -/
def binaryOp (f : Integer → Integer → Integer) (d a b : RegIdx) (s : State) : Except Stop State := do
  let A ← s.readR a
  let B ← s.readR b
  s.writeR d (f A B)

/-- A command with one Integer source and the Integer destination `d`. -/
def unaryOp (f : Integer → Integer) (d a : RegIdx) (s : State) : Except Stop State := do
  let A ← s.readR a
  s.writeR d (f A)

/-- `ADD Rd, Ra, Rb` (R119). -/
def execAdd (d a b : RegIdx) (s : State) : Outcome State Fault Refusal :=
  finish s (binaryOp Integer.add d a b s)

/-- `ADDIP Rd, Rb` (R120): the receiver `R[d]` is the first source (R113). -/
def execAddip (d b : RegIdx) (s : State) : Outcome State Fault Refusal :=
  finish s (binaryOp Integer.add d d b s)

/-- `SUB Rd, Ra, Rb` (R121). -/
def execSub (d a b : RegIdx) (s : State) : Outcome State Fault Refusal :=
  finish s (binaryOp Integer.sub d a b s)

/-- `SUBIP Rd, Rb` (R122). -/
def execSubip (d b : RegIdx) (s : State) : Outcome State Fault Refusal :=
  finish s (binaryOp Integer.sub d d b s)

/-- `MUL Rd, Ra, Rb` (R123). -/
def execMul (d a b : RegIdx) (s : State) : Outcome State Fault Refusal :=
  finish s (binaryOp Integer.mul d a b s)

/-- `MULIP Rd, Rb` (R124). -/
def execMulip (d b : RegIdx) (s : State) : Outcome State Fault Refusal :=
  finish s (binaryOp Integer.mul d d b s)

/-- `SQR Rd, Ra` (R125). -/
def execSqr (d a : RegIdx) (s : State) : Outcome State Fault Refusal :=
  finish s (unaryOp Integer.square d a s)

/-- `NEG Rd, Ra` (R126). -/
def execNeg (d a : RegIdx) (s : State) : Outcome State Fault Refusal :=
  finish s (unaryOp Integer.neg d a s)

/-- `MOV Rd, Ra` (R127): sign and limbs copied. -/
def execMov (d a : RegIdx) (s : State) : Outcome State Fault Refusal :=
  finish s (unaryOp id d a s)

end Sys2Proof.Machine
end

