-- ==== Sys2Proof/Machine/Text.lean ====
section
/-! DEFINITION. The conversion layer: byte sequences and strings in (40_construct_parse.md R92 to R95),
strings out (44_format.md R182, R183; 45_point.md R196). A string is ASCII, one character a byte
(20_memory.md R51). -/

namespace Sys2Proof

/-- The value of a big-endian byte sequence (40_construct_parse.md R92). -/
def bytesValue (bs : List Byte) : Nat := bs.foldl (fun z b => z * 256 + b.toNat) 0

/-! ### Parsing -/

/-- The six whitespace characters of 40_construct_parse.md R94. -/
def isWhitespace (ch : Byte) : Bool :=
  ch == 0x20 || ch == 0x09 || ch == 0x0A || ch == 0x0B || ch == 0x0C || ch == 0x0D

/-- `digit_value(ch)` of R95: both letter cases. -/
def digitValue (ch : Byte) : Option Nat :=
  let c := ch.toNat
  if 0x30 ≤ c ∧ c ≤ 0x39 then some (c - 0x30)
  else if 0x61 ≤ c ∧ c ≤ 0x66 then some (c - 0x61 + 10)
  else if 0x41 ≤ c ∧ c ≤ 0x46 then some (c - 0x41 + 10)
  else none

/-- The digit loop of R93 from the running total `z`; `none` at the first bad digit. -/
def parseDigits (base : Nat) : (z : Nat) → List Byte → Option Nat
  | z, [] => some z
  | z, ch :: s =>
    match digitValue ch with
    | some dv => if dv < base then parseDigits base (z * base + dv) s else none
    | none => none

/-- The value of a string in base 10 or 16, or the fault it raises (R93, after its checks on the base
and on `IOLEN`): whitespace stripped, one leading `-`, then at least one digit. -/
def parseText (base : Nat) (s : List Byte) : Except Machine.FaultCode Int :=
  let stripped := s.filter fun ch => !isWhitespace ch
  let negative := stripped.head? == some 0x2D
  let digits := if negative then stripped.tail else stripped
  if digits.isEmpty then .error .noDigits
  else
    match parseDigits base 0 digits with
    | some z => .ok (if negative then -(z : Int) else (z : Int))
    | none => .error .badDigit

/-! ### Formatting -/

/-- The character of a digit below 16, lower case (44_format.md R180). -/
def digitChar (d : Nat) : Byte := BitVec.ofNat 8 (if d < 10 then 0x30 + d else 0x61 + (d - 10))

/-- Exactly `k` digits of `n` in the base, most significant first, zero-padded. -/
def paddedDigits (base : Nat) : (k : Nat) → (n : Nat) → List Byte
  | 0, _ => []
  | k + 1, n => paddedDigits base k (n / base) ++ [digitChar (n % base)]

/-- A chunk without its leading zero digits. -/
def stripZeros (s : List Byte) : List Byte := s.dropWhile (· == 0x30)

/-- The string of the chunks, most significant first, six digits each (R182, R183): the leading chunk
without leading zeros, the later ones zero-padded. -/
def joinChunks (base : Nat) : List Nat → List Byte
  | [] => []
  | top :: rest => stripZeros (paddedDigits base 6 top) ++ (rest.map (paddedDigits base 6)).flatten

/-- A leading `-` for a negative value (R180). -/
def withSign (sign : Bool) (s : List Byte) : List Byte := if sign then 0x2D :: s else s

/-- The 24-bit group `j` of a magnitude, from its least significant bit upward (R182): its bits come
from one limb or from two adjacent ones. -/
def hexGroup (A : List Limb) (j : Nat) : Nat :=
  let i := 24 * j / 26
  let off := 24 * j % 26
  ((A.getD i 0).toNat / 2 ^ off + (A.getD (i + 1) 0).toNat * 2 ^ (26 - off)) % 2 ^ 24

/-- `hex(A)` of R182: the groups from the most significant non-zero one down. -/
def hexText (A : Integer) : List Byte :=
  if A.isZero then [0x30]
  else
    let groups := (List.range ((26 * A.length + 23) / 24)).reverse.map (hexGroup A.limbs)
    withSign A.sign (joinChunks 16 (groups.dropWhile (· == 0)))

/-- The chunk loop of R183: divide by 1,000,000 and prepend the remainder, while the value is not zero.
Every pass lowers a non-zero value, so `mag(A)` is fuel enough (log 18). -/
def decimalChunks : (fuel : Nat) → (C : Integer) → (chunks : List Nat) → List Nat
  | 0, _, chunks => chunks
  | fuel + 1, C, chunks =>
    if C.isZero then chunks
    else
      let r := shortDiv C.limbs 1000000
      decimalChunks fuel r.1 (r.2 :: chunks)

/-- `dec(A)` of R183. -/
def decText (A : Integer) : List Byte :=
  if A.isZero then [0x30]
  else withSign A.sign (joinChunks 10 (decimalChunks A.mag A.abs []))

/-- The string of a Point (45_point.md R196): `(x_hex, y_hex)`. -/
def pointText (P : Point) : List Byte :=
  [0x28] ++ hexText P.x ++ [0x2C, 0x20] ++ hexText P.y ++ [0x29]

end Sys2Proof
end

