-- ==== Sys2Proof/Machine/Conversion.lean ====
section
/-! DEFINITION. The conversion layer's commands: LDI, LDB, LDS (40_construct_parse.md), STS
(44_format.md). -/

namespace Sys2Proof.Machine

open Host (Outcome)

/-- `LDI Rd, #simm32` (40_construct_parse.md R91): the magnitude in one or two limbs, the sign the
input's. -/
def execLdi (d : RegIdx) (imm : BitVec 32) (s : State) : Outcome State Fault Refusal :=
  let v := signedImm imm
  let mag := v.natAbs
  finish s (s.writeR d (normalize (decide (v < 0))
    [BitVec.ofNat 26 (mag % 2 ^ 26), BitVec.ofNat 26 (mag / 2 ^ 26)]))

/-- `LDB Rd` (R92): a big-endian magnitude, sign false; `F_NODIGITS` for no byte. -/
def execLdb (d : RegIdx) (s : State) : Outcome State Fault Refusal :=
  finish s do
    let bs ← s.loadContent
    if bs.isEmpty then .error (.trap .noDigits)
    else s.writeR d (Integer.ofInt (bytesValue bs))

/-- `LDS Rd, base` (R93): the base is checked before the buffer. -/
def execLds (d : RegIdx) (m : BitVec 8) (s : State) : Outcome State Fault Refusal :=
  finish s do
    let base ← parseBase m
    let text ← s.loadContent
    match parseText base text with
    | .ok z => s.writeR d (Integer.ofInt z)
    | .error c => .error (.trap c)

/-- `STS Ra, base` (44_format.md R181): the source is read before the base is checked (60_exceptions.md
R233). -/
def execSts (a : RegIdx) (m : BitVec 8) (s : State) : Outcome State Fault Refusal :=
  finish s do
    let A ← s.readR a
    let base ← formatBase m
    s.storeText (if base = 16 then hexText A else decText A)

end Sys2Proof.Machine
end

