-- ==== Sys2Proof/Machine/CurveUnit.lean ====
section
/-! DEFINITION. The curve unit's commands (46_curve.md R201 to R213). Nothing is checked about a Point or
the context but what the rules name (R214). -/

namespace Sys2Proof.Machine

open Host (Outcome)

/-- The built-in parameter set 0, secp256k1 (46_curve.md R201). PRESUMED: the spec's own general
knowledge, checked there against its one literal vector (C1, G1; log 15). -/
def secp256k1 : CurveContext where
  p := Integer.ofInt 0xFFFFFFFFFFFFFFFFFFFFFFFFFFFFFFFFFFFFFFFFFFFFFFFFFFFFFFFEFFFFFC2F
  n := Integer.ofInt 0xFFFFFFFFFFFFFFFFFFFFFFFFFFFFFFFEBAAEDCE6AF48A03BBFD25E8CD0364141
  g :=
    { x := Integer.ofInt 0x79BE667EF9DCBBAC55A06295CE870B07029BFCDB2DCE28D959F2815B16F81798
      y := Integer.ofInt 0x483ADA7726A3C4655DA4FBFC0E1108A8FD17B448A68554199C47D08FFB10D4B8 }

/-- The named parameter sets built in (00_scope.md R7 `CURVE_SETS`, R201): only id 0. -/
def curveSet (id : Nat) : Option CurveContext := if id = 0 then some secp256k1 else none

/-- `CSEL #id` (R202): `F_NOCURVE` for an id that names no set. -/
def execCsel (imm : BitVec 32) (s : State) : Outcome State Fault Refusal :=
  finish s
    (match curveSet (unsignedImm imm) with
    | some k => s.writeCurve k
    | none => .error (.trap .noCurve))

/-- `CSET Ra, Rb, Pc` (R203): nothing is checked about the values. -/
def execCset (a b c : RegIdx) (s : State) : Outcome State Fault Refusal :=
  finish s do
    let p ← s.readR a
    let n ← s.readR b
    let g ← s.readP c
    s.writeCurve { p := p, n := n, g := g }

/-- `PLDG Pd` (R204). -/
def execPldg (d : RegIdx) (s : State) : Outcome State Fault Refusal :=
  finish s do
    let k ← s.readCurve
    s.writeP d k.g

/-- A Point result, or an undefined input (R213). -/
def pointResult (d : RegIdx) (v : Option PointVal) (s : State) : Except Stop State :=
  match v with
  | some v => s.writeP d (pointOf v)
  | none => s.undefinedP d

/-- `PADD Pd, Pa, Pb` (R207). -/
def execPadd (d a b : RegIdx) (s : State) : Outcome State Fault Refusal :=
  finish s do
    let X ← s.readP a
    let Y ← s.readP b
    let k ← s.readCurve
    if k.p.isZero then .error (.trap .divZero)
    else pointResult d (addPoints (pointVal X) (pointVal Y) k.p.val) s

/-- `PDBL Pd, Pa` (R209); the modulus is checked before the (0, 0) case. -/
def execPdbl (d a : RegIdx) (s : State) : Outcome State Fault Refusal :=
  finish s do
    let X ← s.readP a
    let k ← s.readCurve
    if k.p.isZero then .error (.trap .divZero)
    else pointResult d (doublePoint (pointVal X) k.p.val) s

/-- `PMUL Pd, Ra, Pb` (R212): the legal scalars are `0 < k <= n`. -/
def execPmul (d a b : RegIdx) (s : State) : Outcome State Fault Refusal :=
  finish s do
    let k ← s.readR a
    let Q ← s.readP b
    let E ← s.readCurve
    if k.val ≤ 0 ∨ k.val > E.n.val then .error (.trap .range)
    else if 2 ≤ k.val ∧ E.p.isZero then .error (.trap .divZero)
    else pointResult d (multiplyPoint k.mag (pointVal Q) E.p.val) s

end Sys2Proof.Machine
end

