-- ==== Sys2Proof/Machine/Division.lean ====
section
/-! DEFINITION. The division commands (42_division.md R157 to R159) and MODINV (43_modinv.md R172). -/

namespace Sys2Proof.Machine

open Host (Outcome)

/-- The operands of the three division commands, read and checked, and the pair `divrem` gives
(R150, R151, R156): a zero divisor raises `F_DIVZERO`, whatever the dividend. -/
def divisionResult (a b : RegIdx) (s : State) : Except Stop (Integer × Integer) := do
  let A ← s.readR a
  let B ← s.readR b
  if B.isZero then .error (.trap .divZero) else .ok (divrem A B)

/-- `DIVQ Rd, Ra, Rb` (R157): the quotient alone. -/
def execDivq (d a b : RegIdx) (s : State) : Outcome State Fault Refusal :=
  finish s do
    let qr ← divisionResult a b s
    s.writeR d qr.1

/-- `DIVR Rd, Ra, Rb` (R158): the remainder alone. -/
def execDivr (d a b : RegIdx) (s : State) : Outcome State Fault Refusal :=
  finish s do
    let qr ← divisionResult a b s
    s.writeR d qr.2

/-- `DIVQR Rd, Rc, Ra, Rb` (R159): quotient and remainder, both or neither. -/
def execDivqr (d c a b : RegIdx) (s : State) : Outcome State Fault Refusal :=
  finish s do
    destinationsDiffer d c
    let qr ← divisionResult a b s
    let t ← s.writeR d qr.1
    t.writeR c qr.2

/-- `MODINV Rd, Ra, Rb` (43_modinv.md R172): a zero modulus raises `F_DIVZERO`; outside the
preconditions of R170 the input is undefined (R175). -/
def execModinv (d a b : RegIdx) (s : State) : Outcome State Fault Refusal :=
  finish s do
    let A ← s.readR a
    let P ← s.readR b
    if P.isZero then .error (.trap .divZero)
    else if inverseDefined A.val P.val then s.writeR d (Integer.ofInt (inverseVal A.val P.val))
    else s.undefinedR d

end Sys2Proof.Machine
end

