-- ==== Sys2Proof/Machine/Flags.lean ====
section
/-! DEFINITION. The flags: `STATUS.EQ` and the `STATUS` word. There are no carry, zero, overflow or
negative condition codes (10_state.md R35). -/

namespace Sys2Proof.Machine

/-- Coordinate-wise equality of two Points as Integers, not modulo anything (45_point.md R195). -/
def pointsEqual (X Y : Point) : Bool := X.x.eqVal Y.x && X.y.eqVal Y.y

/-- `STATUS.EQ <- b` (45_point.md R195). -/
def State.setEq (s : State) (b : Bool) : State := { s with status := { s.status with eq := b } }

/-- `STATUS` as `H_RDSTATUS` returns it (10_state.md R31): `BUSY` bit 0, `EQ` bit 1, `FAULT` bits 7:4,
every reserved bit 0. -/
def Status.word (t : Status) : BitVec 32 :=
  (0 : BitVec 24) ++ t.fault ++ (0 : BitVec 2) ++ BitVec.ofBool t.eq ++ BitVec.ofBool t.busy

end Sys2Proof.Machine
end

