-- ==== Sys2Proof/Machine/PointUnit.lean ====
section
/-! DEFINITION. The Point unit's commands (45_point.md R191 to R196). It does no arithmetic and no
checking (R190). -/

namespace Sys2Proof.Machine

open Host (Outcome)

/-- `PMK Pd, Ra, Rb` (R191). -/
def execPmk (d a b : RegIdx) (s : State) : Outcome State Fault Refusal :=
  finish s do
    let x ← s.readR a
    let y ← s.readR b
    s.writeP d { x := x, y := y }

/-- `PGX Rd, Pa` (R192). -/
def execPgx (d a : RegIdx) (s : State) : Outcome State Fault Refusal :=
  finish s do
    let X ← s.readP a
    s.writeR d X.x

/-- `PGY Rd, Pa` (R193). -/
def execPgy (d a : RegIdx) (s : State) : Outcome State Fault Refusal :=
  finish s do
    let X ← s.readP a
    s.writeR d X.y

/-- `PMOV Pd, Pa` (R194). -/
def execPmov (d a : RegIdx) (s : State) : Outcome State Fault Refusal :=
  finish s do
    let X ← s.readP a
    s.writeP d X

/-- `PEQ Pa, Pb` (R195): the only command that writes `STATUS.EQ`. -/
def execPeq (a b : RegIdx) (s : State) : Outcome State Fault Refusal :=
  finish s do
    let X ← s.readP a
    let Y ← s.readP b
    .ok (s.setEq (pointsEqual X Y))

/-- `PSTS Pa` (R196). -/
def execPsts (a : RegIdx) (s : State) : Outcome State Fault Refusal :=
  finish s do
    let X ← s.readP a
    s.storeText (pointText X)

end Sys2Proof.Machine
end

