-- ==== Sys2Proof/Machine/Shift.lean ====
section
/-! DEFINITION. The shift commands (41_arithmetic.md R128 to R133). The magnitude moves and the sign is
kept (R117); there is no hint (R118). -/

namespace Sys2Proof.Machine

open Host (Outcome)

/-- Shift `R[a]` left by the immediate into `R[d]`. R128 gives the limbs the result needs, and a result
that needs too many is refused by that count, before its limbs are built (log 25). -/
def shiftLeft (d a : RegIdx) (imm : BitVec 32) (s : State) : Except Stop State := do
  let A ← s.readR a
  let n := unsignedImm imm
  if s.cfg.admits (A.shlLength n) then s.writeR d (A.shl n)
  else .error (.trap .capacity)

/-- Shift `R[a]` right by the immediate into `R[d]`. -/
def shiftRight (d a : RegIdx) (imm : BitVec 32) (s : State) : Except Stop State := do
  let A ← s.readR a
  s.writeR d (A.shr (unsignedImm imm))

/-- Shift `R[a]` right by the immediate into `R[d]`, the bits shifted out into `R[c]`; both results from
the value before the command, both written or neither (R131). -/
def shiftRightOut (d c a : RegIdx) (imm : BitVec 32) (s : State) : Except Stop State := do
  destinationsDiffer d c
  let A ← s.readR a
  let t ← s.writeR d (A.shr (unsignedImm imm))
  t.writeR c (A.shiftedOut (unsignedImm imm))

/-- `SHL Rd, Ra, #n` (R128). -/
def execShl (d a : RegIdx) (imm : BitVec 32) (s : State) : Outcome State Fault Refusal :=
  finish s (shiftLeft d a imm s)

/-- `SHLIP Rd, #n` (R129). -/
def execShlip (d : RegIdx) (imm : BitVec 32) (s : State) : Outcome State Fault Refusal :=
  finish s (shiftLeft d d imm s)

/-- `SHR Rd, Ra, #n` (R130). -/
def execShr (d a : RegIdx) (imm : BitVec 32) (s : State) : Outcome State Fault Refusal :=
  finish s (shiftRight d a imm s)

/-- `SHRO Rd, Rc, Ra, #n` (R131). -/
def execShro (d c a : RegIdx) (imm : BitVec 32) (s : State) : Outcome State Fault Refusal :=
  finish s (shiftRightOut d c a imm s)

/-- `SHRIP Rd, #n` (R132). -/
def execShrip (d : RegIdx) (imm : BitVec 32) (s : State) : Outcome State Fault Refusal :=
  finish s (shiftRight d d imm s)

/-- `SHRIPO Rd, Rc, #n` (R133). -/
def execShripo (d c : RegIdx) (imm : BitVec 32) (s : State) : Outcome State Fault Refusal :=
  finish s (shiftRightOut d c d imm s)

end Sys2Proof.Machine
end

