-- ==== Sys2Proof/Machine/Dispatch.lean ====
section
/-! DEFINITION. What each command does: one arm per constructor, one direct call of its meaning. -/

namespace Sys2Proof.Machine

/-- The effect of a decoded command on a state in which it is latched (20_memory.md R57 `C_EXEC`). -/
def exec (i : Instr) (s : State) : Host.Outcome State Fault Refusal :=
  match i with
  | .ldi d imm => Sys2Proof.Machine.execLdi d imm s
  | .ldb d => Sys2Proof.Machine.execLdb d s
  | .lds d m => Sys2Proof.Machine.execLds d m s
  | .sts a m => Sys2Proof.Machine.execSts a m s
  | .add d a b => Sys2Proof.Machine.execAdd d a b s
  | .addip d b => Sys2Proof.Machine.execAddip d b s
  | .sub d a b => Sys2Proof.Machine.execSub d a b s
  | .subip d b => Sys2Proof.Machine.execSubip d b s
  | .mul d a b => Sys2Proof.Machine.execMul d a b s
  | .mulip d b => Sys2Proof.Machine.execMulip d b s
  | .sqr d a => Sys2Proof.Machine.execSqr d a s
  | .neg d a => Sys2Proof.Machine.execNeg d a s
  | .mov d a => Sys2Proof.Machine.execMov d a s
  | .shl d a imm => Sys2Proof.Machine.execShl d a imm s
  | .shlip d imm => Sys2Proof.Machine.execShlip d imm s
  | .shr d a imm => Sys2Proof.Machine.execShr d a imm s
  | .shro d c a imm => Sys2Proof.Machine.execShro d c a imm s
  | .shrip d imm => Sys2Proof.Machine.execShrip d imm s
  | .shripo d c imm => Sys2Proof.Machine.execShripo d c imm s
  | .divq d a b => Sys2Proof.Machine.execDivq d a b s
  | .divr d a b => Sys2Proof.Machine.execDivr d a b s
  | .divqr d c a b => Sys2Proof.Machine.execDivqr d c a b s
  | .modinv d a b => Sys2Proof.Machine.execModinv d a b s
  | .csel imm => Sys2Proof.Machine.execCsel imm s
  | .cset a b c => Sys2Proof.Machine.execCset a b c s
  | .pmk d a b => Sys2Proof.Machine.execPmk d a b s
  | .pgx d a => Sys2Proof.Machine.execPgx d a s
  | .pgy d a => Sys2Proof.Machine.execPgy d a s
  | .pmov d a => Sys2Proof.Machine.execPmov d a s
  | .peq a b => Sys2Proof.Machine.execPeq a b s
  | .psts a => Sys2Proof.Machine.execPsts a s
  | .pldg d => Sys2Proof.Machine.execPldg d s
  | .padd d a b => Sys2Proof.Machine.execPadd d a b s
  | .pdbl d a => Sys2Proof.Machine.execPdbl d a s
  | .pmul d a b => Sys2Proof.Machine.execPmul d a b s

end Sys2Proof.Machine
end

