-- ==== Sys2Proof/Machine/HostPort.lean ====
section
/-! DEFINITION. The HOST's actions (20_memory.md R57, R58) and reset (70_reset_and_hazards.md R260). -/

namespace Sys2Proof.Machine

/-- A host read's value, given to the HOST. -/
def State.reply (s : State) (v : HostReply) : State := { s with replies := s.replies ++ [v] }

/-- The command latched by `H_ISSUE(w)` (R57): `CMDREG <- w`, `BUSY <- 1`. -/
def State.latch (s : State) (w : BitVec 64) : State :=
  { s with cmdreg := w, status := { s.status with busy := true } }

/-- What a busy block answers to `H_RDBUF` and `H_RDLEN`: an unspecified value (R58, U8; log 11). -/
def State.busyValue (s : State) : BitVec 32 := Config.busyReadValue s.resets s.replies.length

/-- The effect of a host action (R57). One that is not enabled has no effect and returns no value, but
for the two reads, which return an unspecified value while `BUSY = 1` (R58; log 11, 12). -/
def hostAct (s : State) : HostAction → State
  | .reset => s.hostReset
  | .wrBuf k b => if !s.status.busy && s.inBuffer k then s.setByte k b else s
  | .wrLen n => if !s.status.busy then s.setLength n else s
  | .rdBuf k =>
    if s.status.busy then s.reply (.byte (s.busyValue.setWidth 8))
    else if s.inBuffer k then s.reply (.byte (s.readByte k))
    else s
  | .rdLen => s.reply (.length (if s.status.busy then s.busyValue else s.iolen))
  | .rdStatus => s.reply (.status s.status.word)
  | .issue w => if !s.status.busy && s.status.fault == 0 then s.latch w else s

end Sys2Proof.Machine
end

