-- ==== Sys2Proof/Machine/Step.lean ====
section
/-! DEFINITION. One step of the machine: the HOST's next turn if it has one, else the CORE's. -/

namespace Sys2Proof.Machine

open Host (Outcome)

/-- `C_EXEC` (20_memory.md R57, 30_encoding.md R79): the latched word is decoded and its command
executed; a word that matches no row raises `F_ILLEGAL` and changes no other state (R77). -/
def commandStep (s : State) : Outcome State Fault Refusal :=
  match decode s.cmdreg with
  | .ok i => exec i s
  | .error _ => .next (s.faultEntry .illegal)

/-- The CORE's turn: `C_EXEC` is enabled when `BUSY = 1` (R57). An idle block does nothing
(DESIGN CHOICE, log 9, safe). -/
def coreTurn (s : State) : Outcome State Fault Refusal :=
  if s.status.busy then commandStep s else .next s

/-- One step: one turn of the schedule (20_memory.md R59; log 8). -/
def step (s : State) : Outcome State Fault Refusal :=
  match s.turns with
  | .act a :: rest => .next (hostAct { s with turns := rest } a)
  | .core :: rest => coreTurn { s with turns := rest }
  | [] => coreTurn s

/-- The command word `w` latched as by `H_ISSUE`, so that the next step runs it: if the HOST has turns
pending, the CORE is let go before them. Bits above `nbits` are 0. Log 10. -/
def State.withFetchWord (s : State) (nbits w : Nat) : State :=
  { s.latch (BitVec.ofNat 64 (w % 2 ^ nbits)) with
    turns :=
      match s.turns with
      | [] => []
      | t :: ts => .core :: t :: ts }

end Sys2Proof.Machine
end

