-- ==== Sys2Proof/Assembler.lean ====
section
/-! DEFINITION. The assembler syntax of 30_encoding.md R80, written and read, and the pseudo-instructions
of R81. It has no effect on the machine. -/

namespace Sys2Proof

/-- An operand as R80 writes it. -/
inductive AsmOperand where
  /-- `Rn` -/
  | r (i : RegIdx)
  /-- `Pn` -/
  | p (i : RegIdx)
  /-- `#v`, in decimal -/
  | imm (v : Int)
  /-- a bare number base -/
  | base (m : BitVec 8)
  deriving DecidableEq, Repr

/-- The operands of a command in the order of R80, destinations first. -/
def Instr.operands : Instr → List AsmOperand
  | .ldi d imm => [.r d, .imm imm.toInt]
  | .ldb d => [.r d]
  | .lds d m => [.r d, .base m]
  | .sts a m => [.r a, .base m]
  | .add d a b => [.r d, .r a, .r b]
  | .addip d b => [.r d, .r b]
  | .sub d a b => [.r d, .r a, .r b]
  | .subip d b => [.r d, .r b]
  | .mul d a b => [.r d, .r a, .r b]
  | .mulip d b => [.r d, .r b]
  | .sqr d a => [.r d, .r a]
  | .neg d a => [.r d, .r a]
  | .mov d a => [.r d, .r a]
  | .shl d a imm => [.r d, .r a, .imm (imm.toNat : Int)]
  | .shlip d imm => [.r d, .imm (imm.toNat : Int)]
  | .shr d a imm => [.r d, .r a, .imm (imm.toNat : Int)]
  | .shro d c a imm => [.r d, .r c, .r a, .imm (imm.toNat : Int)]
  | .shrip d imm => [.r d, .imm (imm.toNat : Int)]
  | .shripo d c imm => [.r d, .r c, .imm (imm.toNat : Int)]
  | .divq d a b => [.r d, .r a, .r b]
  | .divr d a b => [.r d, .r a, .r b]
  | .divqr d c a b => [.r d, .r c, .r a, .r b]
  | .modinv d a b => [.r d, .r a, .r b]
  | .csel imm => [.imm (imm.toNat : Int)]
  | .cset a b c => [.r a, .r b, .p c]
  | .pmk d a b => [.p d, .r a, .r b]
  | .pgx d a => [.r d, .p a]
  | .pgy d a => [.r d, .p a]
  | .pmov d a => [.p d, .p a]
  | .peq a b => [.p a, .p b]
  | .psts a => [.p a]
  | .pldg d => [.p d]
  | .padd d a b => [.p d, .p a, .p b]
  | .pdbl d a => [.p d, .p a]
  | .pmul d a b => [.p d, .r a, .p b]

/-- An operand's text (R80). R80 gives no text for a base field other than 0, 10 and 16, though such a word
is legal (R74): the model writes its number, a text that `assemble` refuses. DESIGN CHOICE, log 29. -/
def AsmOperand.text : AsmOperand → String
  | .r i => "R" ++ toString i.toNat
  | .p i => "P" ++ toString i.toNat
  | .imm v => "#" ++ toString v
  | .base m => toString m.toNat

/-- A command's line of assembler text (R80). -/
def Instr.asm (i : Instr) : String :=
  i.mnemonic ++ " " ++ ", ".intercalate (i.operands.map AsmOperand.text)

/-! ### Pseudo-instructions (R81): exact synonyms of one command -/

/-- `DIV Rd, Ra, Rb`. -/
def pseudoDiv (d a b : RegIdx) : Instr := .divq d a b
/-- `REM Rd, Ra, Rb`. -/
def pseudoRem (d a b : RegIdx) : Instr := .divr d a b
/-- `MOD Rd, Ra, Rb`. -/
def pseudoMod (d a b : RegIdx) : Instr := .divr d a b
/-- `CLONE Rd, Ra`. -/
def pseudoClone (d a : RegIdx) : Instr := .mov d a
/-- `PCLONE Pd, Pa`. -/
def pseudoPclone (d a : RegIdx) : Instr := .pmov d a
/-- `LDS Rd`, the default base. -/
def pseudoLds (d : RegIdx) : Instr := .lds d 0
/-- `STS Ra`, the default base. -/
def pseudoSts (a : RegIdx) : Instr := .sts a 0

/-! ### Reading a line (R80) -/

/-- The value of a digit character, both letter cases. -/
def charDigit (ch : Char) : Option Nat :=
  let c := ch.toNat
  if 0x30 ≤ c ∧ c ≤ 0x39 then some (c - 0x30)
  else if 0x61 ≤ c ∧ c ≤ 0x66 then some (c - 0x61 + 10)
  else if 0x41 ≤ c ∧ c ≤ 0x46 then some (c - 0x41 + 10)
  else none

/-- The digits of a number from the running total `n`. -/
def readDigits (base : Nat) : (n : Nat) → List Char → Option Nat
  | n, [] => some n
  | n, ch :: cs =>
    match charDigit ch with
    | some v => if v < base then readDigits base (n * base + v) cs else none
    | none => none

/-- A number of at least one digit. -/
def readNumber (base : Nat) : List Char → Option Nat
  | [] => none
  | ch :: cs => readDigits base 0 (ch :: cs)

/-- A magnitude, decimal, or hexadecimal after `0x`. -/
def readMagnitude : List Char → Option Nat
  | '0' :: 'x' :: cs => readNumber 16 cs
  | cs => readNumber 10 cs

/-- A register number, 0 to 15 in decimal. R80 says nothing of leading zeros: the model accepts any number of
them. DESIGN CHOICE, log 29. -/
def readIndex (cs : List Char) : Option RegIdx :=
  match readNumber 10 cs with
  | some n => if n < 16 then some (BitVec.ofNat 4 n) else none
  | none => none

/-- One operand: `Rn`, `Pn`, `#v` or one of the three bases, and no other base (log 29). Leading zeros are
accepted in every number, a bare base included. DESIGN CHOICE, log 29. -/
def readOperand : List Char → Option AsmOperand
  | 'R' :: cs => (readIndex cs).map .r
  | 'P' :: cs => (readIndex cs).map .p
  | '#' :: '-' :: cs => (readMagnitude cs).map fun n => .imm (-(n : Int))
  | '#' :: cs => (readMagnitude cs).map fun n => .imm (n : Int)
  | cs =>
    match readNumber 10 cs with
    | some 0 => some (.base 0)
    | some 10 => some (.base 10)
    | some 16 => some (.base 16)
    | _ => none

/-- A text without the blanks at its two ends. -/
def trimBlanks (cs : List Char) : List Char :=
  ((cs.dropWhile (· == ' ')).reverse.dropWhile (· == ' ')).reverse

/-- The parts of a text between its commas. -/
def splitCommas : List Char → List (List Char)
  | [] => [[]]
  | ch :: cs =>
    match splitCommas cs with
    | [] => [[ch]]
    | p :: ps => if ch = ',' then [] :: p :: ps else (ch :: p) :: ps

/-- A signed immediate (R73), if 32 bits hold it. -/
def readSigned (v : Int) : Option (BitVec 32) :=
  if -2 ^ 31 ≤ v ∧ v < 2 ^ 31 then some (BitVec.ofInt 32 v) else none

/-- An unsigned immediate (R73), if 32 bits hold it. -/
def readUnsigned (v : Int) : Option (BitVec 32) :=
  if 0 ≤ v ∧ v < 2 ^ 32 then some (BitVec.ofInt 32 v) else none

/-- The command of a mnemonic and its operands in the order of R80, pseudo-instructions (R81) included. -/
def readCommand (mnemonic : String) (operands : List AsmOperand) : Option Instr :=
  match mnemonic, operands with
  | "LDI", [.r d, .imm v] => (readSigned v).map (.ldi d)
  | "LDB", [.r d] => some (.ldb d)
  | "LDS", [.r d, .base m] => some (.lds d m)
  | "LDS", [.r d] => some (pseudoLds d)
  | "STS", [.r a, .base m] => some (.sts a m)
  | "STS", [.r a] => some (pseudoSts a)
  | "ADD", [.r d, .r a, .r b] => some (.add d a b)
  | "ADDIP", [.r d, .r b] => some (.addip d b)
  | "SUB", [.r d, .r a, .r b] => some (.sub d a b)
  | "SUBIP", [.r d, .r b] => some (.subip d b)
  | "MUL", [.r d, .r a, .r b] => some (.mul d a b)
  | "MULIP", [.r d, .r b] => some (.mulip d b)
  | "SQR", [.r d, .r a] => some (.sqr d a)
  | "NEG", [.r d, .r a] => some (.neg d a)
  | "MOV", [.r d, .r a] => some (.mov d a)
  | "CLONE", [.r d, .r a] => some (pseudoClone d a)
  | "SHL", [.r d, .r a, .imm v] => (readUnsigned v).map (.shl d a)
  | "SHLIP", [.r d, .imm v] => (readUnsigned v).map (.shlip d)
  | "SHR", [.r d, .r a, .imm v] => (readUnsigned v).map (.shr d a)
  | "SHRO", [.r d, .r c, .r a, .imm v] => (readUnsigned v).map (.shro d c a)
  | "SHRIP", [.r d, .imm v] => (readUnsigned v).map (.shrip d)
  | "SHRIPO", [.r d, .r c, .imm v] => (readUnsigned v).map (.shripo d c)
  | "DIVQ", [.r d, .r a, .r b] => some (.divq d a b)
  | "DIV", [.r d, .r a, .r b] => some (pseudoDiv d a b)
  | "DIVR", [.r d, .r a, .r b] => some (.divr d a b)
  | "REM", [.r d, .r a, .r b] => some (pseudoRem d a b)
  | "MOD", [.r d, .r a, .r b] => some (pseudoMod d a b)
  | "DIVQR", [.r d, .r c, .r a, .r b] => some (.divqr d c a b)
  | "MODINV", [.r d, .r a, .r b] => some (.modinv d a b)
  | "CSEL", [.imm v] => (readUnsigned v).map .csel
  | "CSET", [.r a, .r b, .p c] => some (.cset a b c)
  | "PMK", [.p d, .r a, .r b] => some (.pmk d a b)
  | "PGX", [.r d, .p a] => some (.pgx d a)
  | "PGY", [.r d, .p a] => some (.pgy d a)
  | "PMOV", [.p d, .p a] => some (.pmov d a)
  | "PCLONE", [.p d, .p a] => some (pseudoPclone d a)
  | "PEQ", [.p a, .p b] => some (.peq a b)
  | "PSTS", [.p a] => some (.psts a)
  | "PLDG", [.p d] => some (.pldg d)
  | "PADD", [.p d, .p a, .p b] => some (.padd d a b)
  | "PDBL", [.p d, .p a] => some (.pdbl d a)
  | "PMUL", [.p d, .r a, .p b] => some (.pmul d a b)
  | _, _ => none

/-- The operands of a line, all of them readable. -/
def readOperands : List (List Char) → Option (List AsmOperand)
  | [] => some []
  | p :: ps =>
    match readOperand (trimBlanks p), readOperands ps with
    | some o, some os => some (o :: os)
    | _, _ => none

/-- The command of one line of assembler text: a `;` starts a comment, the mnemonic ends at the first
blank, the operands are separated by commas (R80). Every command has an operand. How blanks may stand
around the operands is the model's reading (log 26). -/
def assemble (line : String) : Option Instr :=
  let code := trimBlanks (line.toList.takeWhile (· != ';'))
  let mnemonic := code.takeWhile (· != ' ')
  (readOperands (splitCommas (code.dropWhile (· != ' ')))).bind (readCommand (String.ofList mnemonic))

end Sys2Proof
end

