-- ==== Sys2Proof/Safety.lean ====
section
/-! DEFINITION. What a well-formed state is, and what a command reads, writes and may raise, in the terms
the statements use. -/

namespace Sys2Proof

/-- An Integer as a register of the instance holds it: canonical (10_state.md R23) and of at most
`MAXLIMBS` limbs (R25). -/
def Config.holds (c : Config) (A : Integer) : Bool := A.canonical && c.fits A

/-- A Point as a register of the instance holds it (10_state.md R28). -/
def Config.holdsPoint (c : Config) (A : Point) : Bool := c.holds A.x && c.holds A.y

end Sys2Proof

namespace Sys2Proof.Machine

/-- Every listed offset exists (20_memory.md R50). -/
def State.bufferInRange (s : State) : Bool := s.iobuf.cells.all fun c => s.inBuffer c.1

/-- The invariant of the machine: legal parameters (U9); every stored Integer canonical and within
capacity (10_state.md R23, R24, R25, R28, R30); the buffer in its canonical form and in range; no command
in flight in a faulted block (20_memory.md R57, R58); and only fault codes that exist (60_exceptions.md
R231). -/
structure State.Inv (s : State) : Prop where
  cfgLegal : s.cfg.wf = true
  rHeld : ∀ i, (s.rReg i).all s.cfg.holds = true
  pHeld : ∀ i, (s.pReg i).all s.cfg.holdsPoint = true
  curveHeld : s.curve.all (fun k => s.cfg.holds k.p && s.cfg.holds k.n && s.cfg.holdsPoint k.g) = true
  bufferCanonical : s.iobuf.wf = true
  bufferInRange : s.bufferInRange = true
  busyUnfaulted : s.status.busy = true → s.status.fault = 0
  faultKnown : s.status.fault ≤ 9

end Sys2Proof.Machine

namespace Sys2Proof

/-! ### The table of 10_state.md R39 -/

/-- The Integer registers a command writes (10_state.md R39). -/
def Instr.writesR : Instr → List RegIdx
  | .ldi d _ | .ldb d | .lds d _ | .add d _ _ | .addip d _ | .sub d _ _ | .subip d _ | .mul d _ _
  | .mulip d _ | .sqr d _ | .neg d _ | .mov d _ | .shl d _ _ | .shlip d _ | .shr d _ _ | .shrip d _
  | .divq d _ _ | .divr d _ _ | .modinv d _ _ | .pgx d _ | .pgy d _ => [d]
  | .shro d c _ _ | .shripo d c _ | .divqr d c _ _ => [d, c]
  | .sts _ _ | .csel _ | .cset _ _ _ | .pmk _ _ _ | .pmov _ _ | .peq _ _ | .psts _ | .pldg _
  | .padd _ _ _ | .pdbl _ _ | .pmul _ _ _ => []

/-- The Point registers a command writes (R39). -/
def Instr.writesP : Instr → List RegIdx
  | .pmk d _ _ | .pmov d _ | .pldg d | .padd d _ _ | .pdbl d _ | .pmul d _ _ => [d]
  | .ldi _ _ | .ldb _ | .lds _ _ | .sts _ _ | .add _ _ _ | .addip _ _ | .sub _ _ _ | .subip _ _
  | .mul _ _ _ | .mulip _ _ | .sqr _ _ | .neg _ _ | .mov _ _ | .shl _ _ _ | .shlip _ _ | .shr _ _ _
  | .shro _ _ _ _ | .shrip _ _ | .shripo _ _ _ | .divq _ _ _ | .divr _ _ _ | .divqr _ _ _ _
  | .modinv _ _ _ | .csel _ | .cset _ _ _ | .pgx _ _ | .pgy _ _ | .peq _ _ | .psts _ => []

/-- Whether a command writes `CURVE` (R39). -/
def Instr.writesCurve : Instr → Bool
  | .csel _ | .cset _ _ _ => true
  | .ldi _ _ | .ldb _ | .lds _ _ | .sts _ _ | .add _ _ _ | .addip _ _ | .sub _ _ _ | .subip _ _
  | .mul _ _ _ | .mulip _ _ | .sqr _ _ | .neg _ _ | .mov _ _ | .shl _ _ _ | .shlip _ _ | .shr _ _ _
  | .shro _ _ _ _ | .shrip _ _ | .shripo _ _ _ | .divq _ _ _ | .divr _ _ _ | .divqr _ _ _ _
  | .modinv _ _ _ | .pmk _ _ _ | .pgx _ _ | .pgy _ _ | .pmov _ _ | .peq _ _ | .psts _ | .pldg _
  | .padd _ _ _ | .pdbl _ _ | .pmul _ _ _ => false

/-- Whether a command writes `IOBUF` and `IOLEN` (R39). -/
def Instr.writesBuffer : Instr → Bool
  | .sts _ _ | .psts _ => true
  | .ldi _ _ | .ldb _ | .lds _ _ | .add _ _ _ | .addip _ _ | .sub _ _ _ | .subip _ _
  | .mul _ _ _ | .mulip _ _ | .sqr _ _ | .neg _ _ | .mov _ _ | .shl _ _ _ | .shlip _ _ | .shr _ _ _
  | .shro _ _ _ _ | .shrip _ _ | .shripo _ _ _ | .divq _ _ _ | .divr _ _ _ | .divqr _ _ _ _
  | .modinv _ _ _ | .csel _ | .cset _ _ _ | .pmk _ _ _ | .pgx _ _ | .pgy _ _ | .pmov _ _ | .peq _ _
  | .pldg _ | .padd _ _ _ | .pdbl _ _ | .pmul _ _ _ => false

/-- Whether a command writes `STATUS.EQ` (R39). -/
def Instr.writesEq : Instr → Bool
  | .peq _ _ => true
  | .ldi _ _ | .ldb _ | .lds _ _ | .sts _ _ | .add _ _ _ | .addip _ _ | .sub _ _ _ | .subip _ _
  | .mul _ _ _ | .mulip _ _ | .sqr _ _ | .neg _ _ | .mov _ _ | .shl _ _ _ | .shlip _ _ | .shr _ _ _
  | .shro _ _ _ _ | .shrip _ _ | .shripo _ _ _ | .divq _ _ _ | .divr _ _ _ | .divqr _ _ _ _
  | .modinv _ _ _ | .csel _ | .cset _ _ _ | .pmk _ _ _ | .pgx _ _ | .pgy _ _ | .pmov _ _ | .psts _
  | .pldg _ | .padd _ _ _ | .pdbl _ _ | .pmul _ _ _ => false

/-- The Integer registers a command reads (R39). -/
def Instr.readsR : Instr → List RegIdx
  | .sts a _ | .sqr _ a | .neg _ a | .mov _ a | .shl _ a _ | .shr _ a _ | .shro _ _ a _ => [a]
  | .add _ a b | .sub _ a b | .mul _ a b | .divq _ a b | .divr _ a b | .divqr _ _ a b | .modinv _ a b
  | .pmk _ a b | .cset a b _ => [a, b]
  | .addip d b | .subip d b | .mulip d b => [d, b]
  | .shlip d _ | .shrip d _ | .shripo d _ _ => [d]
  | .pmul _ a _ => [a]
  | .ldi _ _ | .ldb _ | .lds _ _ | .csel _ | .pgx _ _ | .pgy _ _ | .pmov _ _ | .peq _ _ | .psts _
  | .pldg _ | .padd _ _ _ | .pdbl _ _ => []

/-- The Point registers a command reads (R39). -/
def Instr.readsP : Instr → List RegIdx
  | .pgx _ a | .pgy _ a | .pmov _ a | .psts a | .pdbl _ a => [a]
  | .peq a b | .padd _ a b => [a, b]
  | .cset _ _ c => [c]
  | .pmul _ _ b => [b]
  | .ldi _ _ | .ldb _ | .lds _ _ | .sts _ _ | .add _ _ _ | .addip _ _ | .sub _ _ _ | .subip _ _
  | .mul _ _ _ | .mulip _ _ | .sqr _ _ | .neg _ _ | .mov _ _ | .shl _ _ _ | .shlip _ _ | .shr _ _ _
  | .shro _ _ _ _ | .shrip _ _ | .shripo _ _ _ | .divq _ _ _ | .divr _ _ _ | .divqr _ _ _ _
  | .modinv _ _ _ | .csel _ | .pmk _ _ _ | .pldg _ => []

/-- Whether a command reads `CURVE` (R39). -/
def Instr.readsCurve : Instr → Bool
  | .pldg _ | .padd _ _ _ | .pdbl _ _ | .pmul _ _ _ => true
  | .ldi _ _ | .ldb _ | .lds _ _ | .sts _ _ | .add _ _ _ | .addip _ _ | .sub _ _ _ | .subip _ _
  | .mul _ _ _ | .mulip _ _ | .sqr _ _ | .neg _ _ | .mov _ _ | .shl _ _ _ | .shlip _ _ | .shr _ _ _
  | .shro _ _ _ _ | .shrip _ _ | .shripo _ _ _ | .divq _ _ _ | .divr _ _ _ | .divqr _ _ _ _
  | .modinv _ _ _ | .csel _ | .cset _ _ _ | .pmk _ _ _ | .pgx _ _ | .pgy _ _ | .pmov _ _ | .peq _ _
  | .psts _ => false

/-- Whether a command reads `IOBUF` and `IOLEN` (R39). -/
def Instr.readsBuffer : Instr → Bool
  | .ldb _ | .lds _ _ => true
  | .ldi _ _ | .sts _ _ | .add _ _ _ | .addip _ _ | .sub _ _ _ | .subip _ _
  | .mul _ _ _ | .mulip _ _ | .sqr _ _ | .neg _ _ | .mov _ _ | .shl _ _ _ | .shlip _ _ | .shr _ _ _
  | .shro _ _ _ _ | .shrip _ _ | .shripo _ _ _ | .divq _ _ _ | .divr _ _ _ | .divqr _ _ _ _
  | .modinv _ _ _ | .csel _ | .cset _ _ _ | .pmk _ _ _ | .pgx _ _ | .pgy _ _ | .pmov _ _ | .peq _ _
  | .psts _ | .pldg _ | .padd _ _ _ | .pdbl _ _ | .pmul _ _ _ => false

open Machine (FaultCode)

/-- The faults a command can raise, in the order they are checked (60_exceptions.md R232). -/
def Instr.mayRaise : Instr → List FaultCode
  | .ldi _ _ => []
  | .ldb _ => [.capacity, .noDigits, .capacity]
  | .lds _ _ => [.base, .capacity, .noDigits, .badDigit, .capacity]
  | .sts _ _ => [.uninit, .base, .capacity]
  | .add _ _ _ | .sub _ _ _ | .mul _ _ _ | .sqr _ _ | .shl _ _ _ => [.uninit, .capacity]
  | .addip _ _ | .subip _ _ | .mulip _ _ | .shlip _ _ => [.uninit, .capacity]
  | .neg _ _ | .mov _ _ | .shr _ _ _ | .shrip _ _ => [.uninit]
  | .shro _ _ _ _ | .shripo _ _ _ => [.illegal, .uninit]
  | .divq _ _ _ | .divr _ _ _ => [.uninit, .divZero]
  | .divqr _ _ _ _ => [.illegal, .uninit, .divZero]
  | .modinv _ _ _ => [.uninit, .divZero]
  | .pmk _ _ _ | .pgx _ _ | .pgy _ _ | .pmov _ _ | .peq _ _ => [.uninit]
  | .psts _ => [.uninit, .capacity]
  | .csel _ => [.noCurve, .capacity]
  | .cset _ _ _ => [.uninit]
  | .pldg _ => [.noCurve]
  | .padd _ _ _ | .pdbl _ _ => [.uninit, .noCurve, .divZero]
  | .pmul _ _ _ => [.uninit, .noCurve, .range, .divZero]

end Sys2Proof

namespace Sys2Proof.Machine

open Host (Outcome)

/-! ### What a command depends on -/

/-- Two states that agree on everything R39 says a command reads: its source registers, `CURVE`, the
current content of the buffer; and on the instance and the indices of its free values. -/
structure ReadsAgree (i : Instr) (s t : State) : Prop where
  cfg : s.cfg = t.cfg
  resets : s.resets = t.resets
  draws : s.draws = t.draws
  r : ∀ j ∈ i.readsR, s.rReg j = t.rReg j
  p : ∀ j ∈ i.readsP, s.pReg j = t.pReg j
  curve : i.readsCurve = true → s.curve = t.curve
  iolen : i.readsBuffer = true → s.iolen = t.iolen
  iobuf : i.readsBuffer = true → ∀ k < s.iolen.toNat, s.readByte k = t.readByte k

/-- Two states that agree on everything R39 says a command writes. -/
structure WritesAgree (i : Instr) (s t : State) : Prop where
  r : ∀ j ∈ i.writesR, s.rReg j = t.rReg j
  p : ∀ j ∈ i.writesP, s.pReg j = t.pReg j
  curve : i.writesCurve = true → s.curve = t.curve
  eq : i.writesEq = true → s.status.eq = t.status.eq
  iolen : i.writesBuffer = true → s.iolen = t.iolen
  iobuf : i.writesBuffer = true → ∀ k < s.iolen.toNat, s.readByte k = t.readByte k

/-! ### Contracts of commands with Integer operands, in values -/

/-- The command reads `R[a]` and `R[b]` and writes `R[d]` with the Integer whose value is `f` of theirs:
it completes if that fits, raises `F_CAPACITY` if not, and `F_UNINIT` if a source is not valid; nothing
else changes. -/
def BinaryContract (i : Instr) (d a b : RegIdx) (f : Int → Int → Int) : Prop :=
  ∀ s : State,
    (∀ A B : Integer, s.rReg a = some A → s.rReg b = some B → A.canonical = true → B.canonical = true →
      (s.cfg.fits (Integer.ofInt (f A.val B.val)) = true →
        exec i s = .next (s.setR d (Integer.ofInt (f A.val B.val))).complete) ∧
      (s.cfg.fits (Integer.ofInt (f A.val B.val)) = false →
        exec i s = .next (s.faultEntry .capacity))) ∧
    (s.rReg a = none ∨ s.rReg b = none → exec i s = .next (s.faultEntry .uninit))

/-- The same for a command with the one source `R[a]`. -/
def UnaryContract (i : Instr) (d a : RegIdx) (f : Int → Int) : Prop :=
  ∀ s : State,
    (∀ A : Integer, s.rReg a = some A → A.canonical = true →
      (s.cfg.fits (Integer.ofInt (f A.val)) = true →
        exec i s = .next (s.setR d (Integer.ofInt (f A.val))).complete) ∧
      (s.cfg.fits (Integer.ofInt (f A.val)) = false → exec i s = .next (s.faultEntry .capacity))) ∧
    (s.rReg a = none → exec i s = .next (s.faultEntry .uninit))

/-- A command with the one source `R[a]` whose result is never longer than a source that fits: it always
completes when the source is valid. -/
def ShorteningContract (i : Instr) (d a : RegIdx) (f : Int → Int) : Prop :=
  ∀ s : State,
    (∀ A : Integer, s.rReg a = some A → A.canonical = true → s.cfg.fits A = true →
      exec i s = .next (s.setR d (Integer.ofInt (f A.val))).complete) ∧
    (s.rReg a = none → exec i s = .next (s.faultEntry .uninit))

/-- A right shift with side output: the shifted value to `R[d]`, the bits shifted out to `R[c]`, both of
the source's value before the command. -/
def SideOutputContract (i : Instr) (d c a : RegIdx) (n : Nat) : Prop :=
  ∀ s : State,
    (∀ A : Integer, d ≠ c → s.rReg a = some A → A.canonical = true → s.cfg.fits A = true →
      exec i s = .next ((s.setR d (Integer.ofInt (A.val.tdiv (2 ^ n)))).setR c
        (Integer.ofInt ((A.val.natAbs % 2 ^ n : Nat) : Int))).complete) ∧
    (d ≠ c → s.rReg a = none → exec i s = .next (s.faultEntry .uninit)) ∧
    (d = c → exec i s = .next (s.faultEntry .illegal))

/-! ### The division table of 42_division.md R161 -/

/-- The quotient column: the floor quotient of the magnitudes, negated when exactly one of dividend and
divisor is negative. -/
def quotientOf (a b : Int) : Int :=
  let qm : Int := (a.natAbs / b.natAbs : Nat)
  if (0 ≤ a ∧ 0 < b) ∨ (a < 0 ∧ b < 0) then qm else -qm

/-- The remainder column: the magnitude remainder, but for a negative dividend and a positive divisor
the divisor less it, when it is not zero. -/
def remainderOf (a b : Int) : Int :=
  let rm : Int := (a.natAbs % b.natAbs : Nat)
  if a < 0 ∧ 0 < b ∧ rm ≠ 0 then b - rm else rm

/-! ### Strings -/

/-- The digits of a number in a base of at most 16, most significant first, no leading zero, as the core
library's `Nat.toDigits` gives them, one ASCII character a byte. -/
def plainDigits (base n : Nat) : List Byte := (Nat.toDigits base n).map fun ch => BitVec.ofNat 8 ch.toNat

/-- The string of a value: a `-` for a negative one, then the digits of its magnitude with no leading
zero, `0` for zero (44_format.md R180, R182, R183). -/
def signedDigits (base : Nat) (A : Integer) : List Byte :=
  if A.sign then 0x2D :: plainDigits base A.mag else plainDigits base A.mag

/-- The six whitespace characters of 40_construct_parse.md R94, as it lists them. -/
def whitespaceBytes : List Byte := [0x20, 0x09, 0x0A, 0x0B, 0x0C, 0x0D]

/-- The current content of the buffer (20_memory.md R51), unwritten bytes included (R62). -/
def State.content (s : State) : List Byte := (List.range s.iolen.toNat).map s.readByte

/-- The bytes of a sequence that are not whitespace. -/
def withoutWhitespace (text : List Byte) : List Byte := text.filter fun ch => decide (ch ∉ whitespaceBytes)

/-- The text STS writes for an Integer and a base field (44_format.md R181). -/
def stsText (A : Integer) (m : BitVec 8) : List Byte := if numberBase m = 16 then hexText A else decText A

/-- The state after a string has been put into the buffer and its length into `IOLEN`. -/
def State.withText (s : State) (text : List Byte) : State :=
  (s.setBytes 0 text).setLength (lengthWord text.length)

/-- The command stores `text` and completes: the text from offset 0, its length in `IOLEN` (exactly, if
32 bits can hold it), every byte past it and everything else as before. -/
def StoresText (i : Instr) (s : State) (text : List Byte) : Prop :=
  exec i s = .next (s.withText text).complete ∧
  (∀ k (h : k < text.length), (s.withText text).complete.readByte k = text[k]) ∧
  (∀ k, text.length ≤ k → (s.withText text).complete.readByte k = s.readByte k) ∧
  (text.length < 2 ^ 32 → (s.withText text).complete.iolen.toNat = text.length)

/-! ### Sequences of commands, and the curve -/

/-- Commands one after another, as long as each answers a next state. -/
def runCommands : List Instr → State → Outcome State Fault Refusal
  | [], s => .next s
  | i :: is, s =>
    match exec i s with
    | .next t => runCommands is t
    | .fault f => .fault f
    | .refused r => .refused r

/-- The Point satisfies `y² = x³ + b` modulo `p` (46_curve.md R200). -/
def OnCurve (b p : Int) (P : PointVal) : Prop := P.2 * P.2 % p = (P.1 * P.1 * P.1 + b) % p

/-- Two Points have the same residues modulo `p`. -/
def SameResidues (p : Int) (P Q : PointVal) : Prop := P.1 % p = Q.1 % p ∧ P.2 % p = Q.2 % p

/-! ### Undefined inputs -/

/-- What an undefined input of a command with the Integer destination `R[d]` may do (43_modinv.md R175):
stay busy for ever, or complete with any Integer that fits; no fault either way. -/
def UndefinedInteger (i : Instr) (d : RegIdx) (s : State) : Prop :=
  exec i s = .next s ∨
  ∃ A : Integer, s.cfg.holds A = true ∧
    exec i s = .next { s.setR d A with draws := s.draws + 1 }.complete

/-- The same for the Point destination `P[d]` (46_curve.md R213). -/
def UndefinedPoint (i : Instr) (d : RegIdx) (s : State) : Prop :=
  exec i s = .next s ∨
  ∃ A : Point, s.cfg.holdsPoint A = true ∧
    exec i s = .next { s.setP d A with draws := s.draws + 1 }.complete

end Sys2Proof.Machine
end

