-- ==== Sys2Proof/Certificates/Slice0/Obligations.lean ====
section
/-! DEFINITION. The statements for the provers. Each docstring says which rules of spec/ it formalises;
where a clause is the model's own choice it names the log entry. -/

open Sys2Proof Sys2Proof.Machine
open Host (Outcome)

/-! ## Encoding -/

/-- R71: the fields of a word lie where the format table puts them. -/
def Obligations.FormatFieldsArePositional : Prop :=
  ∀ w : BitVec 64,
    w.toNat = (fieldsOf w).op.toNat * 2 ^ 56 + (fieldsOf w).d.toNat * 2 ^ 52 + (fieldsOf w).a.toNat * 2 ^ 48
      + (fieldsOf w).b.toNat * 2 ^ 44 + (fieldsOf w).c.toNat * 2 ^ 40 + (fieldsOf w).m.toNat * 2 ^ 32
      + (fieldsOf w).imm.toNat

/-- R71, R75, R76: decoding the word of a command gives the command, every operand at every value. That this
holds of SHRO, SHRIPO and DIVQR with `d = c` too is the model's reading (log 14): R79 raises `F_ILLEGAL` while
decoding such a word, the model decodes it and raises `F_ILLEGAL` as the command's first act. -/
def Obligations.EncodedCommandDecodes : Prop :=
  ∀ i : Instr, decode (encode i) = .ok i ∧ decodeTableWord 64 (encode i).toNat = some i

/-- R70, R75, R76: a word that decodes is the one word of its command. -/
def Obligations.DecodedWordReencodes : Prop :=
  ∀ (w : BitVec 64) (i : Instr), decode w = .ok i → encode i = w

/-- R75: a word is the command of a row exactly when `(w AND mask) = match`. That a word of SHRO, SHRIPO or
DIVQR with `d = c` decodes to its row's command, which then raises `F_ILLEGAL`, is the model's reading
(log 14): R79 raises `F_ILLEGAL` while decoding it. -/
def Obligations.DecoderAgreesWithOpcodeTable : Prop :=
  ∀ w : BitVec 64,
    (∀ i, decode w = .ok i → ∃ row ∈ opcodeTable, row.selects w = true ∧ row.mnemonic = i.mnemonic) ∧
    (∀ row ∈ opcodeTable, row.selects w = true → ∃ i, decode w = .ok i ∧ i.mnemonic = row.mnemonic)

/-- R75: no two rows can match the same word, and there are thirty-five. -/
def Obligations.OpcodeRowsAreDisjoint : Prop :=
  opcodeTable.length = 35 ∧
  opcodeTable.Pairwise fun r q => r.mnemonic ≠ q.mnemonic ∧ ∀ w, r.selects w = true → q.selects w = false

/-- R82: the worked encodings, both ways. -/
def Obligations.WorkedEncodingsDecode : Prop :=
  ∀ p ∈ ([
      (0x1031200000000000, .add 3 1 2),
      (0x0100000000003039, .ldi 0 12345),
      (0x01100000FFFFFFFF, .ldi 1 (-1)),
      (0x0400001000000000, .sts 0 16),
      (0x2020130300000000, .divqr 2 3 0 1),
      (0x3B10000000000000, .pmul 1 0 0),
      (0x1B44050100000001, .shro 4 5 4 1) ] : List (BitVec 64 × Instr)),
    encode p.2 = p.1 ∧ decode p.1 = .ok p.2

/-- R78: two equal destination fields raise `F_ILLEGAL`, whatever the registers hold; these are the
commands that are not well formed, and no other is. -/
def Obligations.TwoDestinationsMustDiffer : Prop :=
  ∀ s : State,
    (∀ d a imm, exec (.shro d d a imm) s = .next (s.faultEntry .illegal)) ∧
    (∀ d imm, exec (.shripo d d imm) s = .next (s.faultEntry .illegal)) ∧
    (∀ d a b, exec (.divqr d d a b) s = .next (s.faultEntry .illegal)) ∧
    (∀ i : Instr, i.wellFormed = false ↔
      (∃ d a imm, i = .shro d d a imm) ∨ (∃ d imm, i = .shripo d d imm) ∨ ∃ d a b, i = .divqr d d a b)

/-! ## The step and the HOST -/

/-- R57, R59: a step runs the command its latched word decodes to, in the CORE's turn; in a HOST's turn it
is the host action; `withFetchWord` makes the next step run the given word (log 8, 10). -/
def Obligations.StepRunsTheDecodedCommand : Prop :=
  (∀ (s : State) (i : Instr), s.status.busy = true → decode s.cmdreg = .ok i →
    (s.turns = [] → step s = exec i s) ∧
    (∀ rest, s.turns = .core :: rest → step s = exec i { s with turns := rest })) ∧
  (∀ (s : State) (a : HostAction) (rest : List HostTurn), s.turns = .act a :: rest →
    step s = .next (hostAct { s with turns := rest } a)) ∧
  (∀ (s : State) (nbits w : Nat) (i : Instr), decodeTableWord nbits w = some i →
    step (s.withFetchWord nbits w) = exec i (s.latch (BitVec.ofNat 64 (w % 2 ^ nbits))))

/-- R77: a latched word that matches no row raises `F_ILLEGAL` and changes no other state. -/
def Obligations.IllegalWordFaults : Prop :=
  ∀ s : State, s.status.busy = true → (∀ row ∈ opcodeTable, row.selects s.cmdreg = false) →
    (s.turns = [] → step s = .next (s.faultEntry .illegal)) ∧
    (∀ rest, s.turns = .core :: rest → step s = .next ({ s with turns := rest }.faultEntry .illegal))

/-- R36, R37, R59: from every state at all a step answers a next state, of the same instance, and uses up
one turn of the schedule; no host action is needed for the CORE's turn when none is left. -/
def Obligations.StepAlwaysAnswersNext : Prop :=
  ∀ s : State, ∃ t, step s = .next t ∧ t.cfg = s.cfg ∧ t.turns = s.turns.tail

/-- The invariant holds right after reset, of every instance with legal parameters (R38; U9). -/
def Obligations.ResetMeetsInv : Prop :=
  (∀ c : Config, c.wf = true → (State.resetWith c).Inv) ∧ State.reset.Inv

/-- R23, R24, R25, R28, R30, R50: every step keeps the invariant, from every state that has it. -/
def Obligations.StepKeepsInv : Prop :=
  ∀ s t : State, s.Inv → step s = .next t → t.Inv

/-- R260: the host action `H_RESET`, in every state, idle, busy or faulted, gives the values the rule
lists; power-on gives the same. The fields the rule leaves unspecified are left unsaid. -/
def Obligations.ResetClearsEverything : Prop :=
  (∀ (s : State) (rest : List HostTurn), s.turns = .act .reset :: rest →
    ∃ t, step s = .next t ∧ (∀ i, t.rReg i = none) ∧ (∀ i, t.pReg i = none) ∧ t.curve = none ∧
      t.status.busy = false ∧ t.status.eq = false ∧ t.status.fault = 0 ∧ t.iolen = 0) ∧
  (∀ c : Config, (∀ i, (State.resetWith c).rReg i = none) ∧ (∀ i, (State.resetWith c).pReg i = none) ∧
    (State.resetWith c).curve = none ∧ (State.resetWith c).status = ⟨false, false, 0⟩ ∧
    (State.resetWith c).iolen = 0)

/-- R57: each host action that is enabled has its effect and no other (log 8 for the turns). -/
def Obligations.EnabledHostActions : Prop :=
  ∀ (s : State) (rest : List HostTurn),
    (∀ k b, s.turns = .act (.wrBuf k b) :: rest → s.status.busy = false → s.inBuffer k = true →
      ∃ t, step s = .next t ∧ t = { s with turns := rest, iobuf := t.iobuf } ∧ t.readByte k = b ∧
        ∀ j, j ≠ k → t.readByte j = s.readByte j) ∧
    (∀ n, s.turns = .act (.wrLen n) :: rest → s.status.busy = false →
      step s = .next { s with turns := rest, iolen := n }) ∧
    (∀ k, s.turns = .act (.rdBuf k) :: rest → s.status.busy = false → s.inBuffer k = true →
      step s = .next { s with turns := rest, replies := s.replies ++ [.byte (s.readByte k)] }) ∧
    (s.turns = .act .rdLen :: rest → s.status.busy = false →
      step s = .next { s with turns := rest, replies := s.replies ++ [.length s.iolen] }) ∧
    (s.turns = .act .rdStatus :: rest →
      step s = .next { s with turns := rest, replies := s.replies ++ [.status s.status.word] }) ∧
    (∀ w, s.turns = .act (.issue w) :: rest → s.status.busy = false → s.status.fault = 0 →
      step s = .next { s with turns := rest, cmdreg := w, status := { s.status with busy := true } })

/-- R58: a host action that is not enabled has no effect. A read while `BUSY = 1` gives the HOST some
value and changes nothing else: that it answers at all is the model's choice (log 11). -/
def Obligations.DisabledHostActionsChangeNothing : Prop :=
  ∀ (s : State) (rest : List HostTurn),
    (∀ k b, s.turns = .act (.wrBuf k b) :: rest → s.status.busy = true ∨ s.inBuffer k = false →
      step s = .next { s with turns := rest }) ∧
    (∀ n, s.turns = .act (.wrLen n) :: rest → s.status.busy = true →
      step s = .next { s with turns := rest }) ∧
    (∀ w, s.turns = .act (.issue w) :: rest → s.status.busy = true ∨ s.status.fault ≠ 0 →
      step s = .next { s with turns := rest }) ∧
    (∀ k, s.turns = .act (.rdBuf k) :: rest → s.status.busy = false → s.inBuffer k = false →
      step s = .next { s with turns := rest }) ∧
    (∀ k, s.turns = .act (.rdBuf k) :: rest → s.status.busy = true →
      ∃ b, step s = .next { s with turns := rest, replies := s.replies ++ [.byte b] }) ∧
    (s.turns = .act .rdLen :: rest → s.status.busy = true →
      ∃ n, step s = .next { s with turns := rest, replies := s.replies ++ [.length n] })

/-- R242: once a fault is reported, no number of steps without `H_RESET` clears it, lets a command run,
or changes a register, a Point, `CURVE` or `EQ`. That `CMDREG` stays as it was is the model's choice (log 2):
the spec leaves it unspecified while `BUSY = 0`. -/
def Obligations.FaultedBlockWaitsForReset : Prop :=
  ∀ (n : Nat) (s : State), s.status.fault ≠ 0 → s.status.busy = false → .act .reset ∉ s.turns →
    ∃ t : State, Sys2Proof.core.run n s = .next t ∧ t.status = s.status ∧ t.r = s.r ∧ t.p = s.p ∧
      t.curve = s.curve ∧ t.cmdreg = s.cmdreg

/-- R33, R57, R59: the command the HOST issues is the command the CORE runs next, on the state the HOST
left. -/
def Obligations.IssuedCommandRuns : Prop :=
  ∀ (s : State) (rest : List HostTurn) (i : Instr),
    s.turns = .act (.issue (encode i)) :: .core :: rest → s.status.busy = false → s.status.fault = 0 →
    ∃ u, step s = .next u ∧
      step u = exec i { s with turns := rest, cmdreg := encode i, status := { s.status with busy := true } }

/-- R31, R231: the layout of `STATUS` as the HOST reads it, and the code fault entry puts into it for each
of the nine causes; there is no other cause. -/
def Obligations.StatusWordLayout : Prop :=
  (∀ t : Status, t.word.toNat = t.busy.toNat + 2 * t.eq.toNat + 16 * t.fault.toNat) ∧
  (∀ s : State, ∀ p ∈ ([(.divZero, 1), (.base, 2), (.noDigits, 3), (.badDigit, 4), (.range, 5), (.uninit, 6),
      (.illegal, 7), (.capacity, 8), (.noCurve, 9)] : List (FaultCode × Nat)),
    (s.faultEntry p.1).status.fault.toNat = p.2 ∧
    (s.faultEntry p.1).status.word.toNat = 2 * s.status.eq.toNat + 16 * p.2) ∧
  ∀ c : FaultCode, c ∈ ([.divZero, .base, .noDigits, .badDigit, .range, .uninit, .illegal, .capacity,
    .noCurve] : List FaultCode)

/-! ## Frames, faults, dependence -/

/-- R39, R240, R241: what each command leaves unchanged. A storing command's bytes start at offset 0 and
are as many as its text, computed as its meaning computes it. A change of `FAULT` is a fault entry, which
changes nothing but `FAULT` and `BUSY`. That `CMDREG` keeps its word once the command has ended is the model's
choice (log 2): R32 leaves it unspecified then. -/
def Obligations.CommandsWriteOnlyTheirDestinations : Prop :=
  ∀ (i : Instr) (s t : State), exec i s = .next t →
    (∀ j, j ∉ i.writesR → t.rReg j = s.rReg j) ∧
    (∀ j, j ∉ i.writesP → t.pReg j = s.pReg j) ∧
    (i.writesCurve = false → t.curve = s.curve) ∧
    (i.writesEq = false → t.status.eq = s.status.eq) ∧
    (i.writesBuffer = false → t.iolen = s.iolen ∧ ∀ k, t.readByte k = s.readByte k) ∧
    (∀ a m A, i = .sts a m → s.rReg a = some A →
      ∀ k, (stsText A m).length ≤ k → t.readByte k = s.readByte k) ∧
    (∀ a A, i = .psts a → s.pReg a = some A →
      ∀ k, (pointText A).length ≤ k → t.readByte k = s.readByte k) ∧
    t.cfg = s.cfg ∧ t.cmdreg = s.cmdreg ∧ t.turns = s.turns ∧ t.replies = s.replies ∧ t.resets = s.resets ∧
    (t.status.fault = s.status.fault ∨
      ∃ c : FaultCode, t = { s with status := { busy := false, eq := s.status.eq, fault := c.code } })

/-- R39, R266, R272: a command's outcome depends only on what R39 says it reads (and on the instance and the
indices of the model's free values, log 5): on two states that agree there it faults alike, or waits alike,
or writes the same values to its destinations. -/
def Obligations.CommandsDependOnlyOnTheirOperands : Prop :=
  ∀ (i : Instr) (s t : State), ReadsAgree i s t →
    (∃ c, exec i s = .next (s.faultEntry c) ∧ exec i t = .next (t.faultEntry c)) ∨
    (exec i s = .next s ∧ exec i t = .next t) ∨
    ∃ s' t', exec i s = .next s' ∧ exec i t = .next t' ∧ WritesAgree i s' t' ∧
      s'.status.busy = false ∧ t'.status.busy = false ∧
      s'.status.fault = s.status.fault ∧ t'.status.fault = t.status.fault

/-- R232: on a state of the machine a command raises no fault but those the table lists for it. -/
def Obligations.FaultsAreTheListedOnes : Prop :=
  ∀ (i : Instr) (s t : State), s.Inv → exec i s = .next t →
    t.status.fault = s.status.fault ∨ ∃ c ∈ i.mayRaise, t = s.faultEntry c

/-- R233 points 1 to 3: `F_ILLEGAL` before `F_UNINIT` before `F_NOCURVE` before anything else. -/
def Obligations.FirstFaultWins : Prop :=
  ∀ (i : Instr) (s : State),
    (i.wellFormed = false → exec i s = .next (s.faultEntry .illegal)) ∧
    (i.wellFormed = true →
      ((∃ j ∈ i.readsR, s.rReg j = none) ∨ (∃ j ∈ i.readsP, s.pReg j = none) →
        exec i s = .next (s.faultEntry .uninit)) ∧
      ((∀ j ∈ i.readsR, s.rReg j ≠ none) → (∀ j ∈ i.readsP, s.pReg j ≠ none) →
        i.readsCurve = true → s.curve = none → exec i s = .next (s.faultEntry .noCurve)))

/-! ## Conversion -/

/-- R91: LDI loads `sext_32(imm)` and always completes. -/
def Obligations.LdiLoadsItsImmediate : Prop :=
  ∀ (d : RegIdx) (imm : BitVec 32) (s : State), s.cfg.wf = true →
    exec (.ldi d imm) s = .next (s.setR d (Integer.ofInt imm.toInt)).complete

/-- R92: LDB loads the big-endian magnitude of the buffer's content, or faults as listed. -/
def Obligations.LdbLoadsBigEndian : Prop :=
  ∀ (d : RegIdx) (s : State),
    let n := s.iolen.toNat
    let z : Nat := ∑ k ∈ Finset.range n, (s.readByte k).toNat * 256 ^ (n - 1 - k)
    (s.bufferHolds n = false → exec (.ldb d) s = .next (s.faultEntry .capacity)) ∧
    (s.bufferHolds n = true → n = 0 → exec (.ldb d) s = .next (s.faultEntry .noDigits)) ∧
    (s.bufferHolds n = true → 0 < n → s.cfg.fits (Integer.ofInt z) = true →
      exec (.ldb d) s = .next (s.setR d (Integer.ofInt z)).complete) ∧
    (s.bufferHolds n = true → 0 < n → s.cfg.fits (Integer.ofInt z) = false →
      exec (.ldb d) s = .next (s.faultEntry .capacity))

/-- R93: LDS, for every base field and every content of the buffer. `digits` is what is left after the
whitespace and one leading `-` are removed; `values` are its digits' values. -/
def Obligations.LdsLoadsTheParsedString : Prop :=
  ∀ (d : RegIdx) (m : BitVec 8) (s : State),
    (m ≠ 0 ∧ m ≠ 10 ∧ m ≠ 16 → exec (.lds d m) s = .next (s.faultEntry .base)) ∧
    (m = 0 ∨ m = 10 ∨ m = 16 →
      (s.bufferHolds s.iolen.toNat = false → exec (.lds d m) s = .next (s.faultEntry .capacity)) ∧
      (s.bufferHolds s.iolen.toNat = true → ∀ (negative : Bool) (digits : List Byte),
        withoutWhitespace s.content = (if negative then 0x2D :: digits else digits) →
        (negative = false → digits.head? ≠ some 0x2D) →
        (digits = [] → exec (.lds d m) s = .next (s.faultEntry .noDigits)) ∧
        (digits ≠ [] → ∀ values : List Nat, digits.map digitValue = values.map some →
          (∀ v ∈ values, v < (if m = 16 then 16 else 10)) →
          let z : Nat := Nat.ofDigits (if m = 16 then 16 else 10) values.reverse
          let A := Integer.ofInt (if negative then -(z : Int) else (z : Int))
          (s.cfg.fits A = true → exec (.lds d m) s = .next (s.setR d A).complete) ∧
          (s.cfg.fits A = false → exec (.lds d m) s = .next (s.faultEntry .capacity))) ∧
        ((∃ ch ∈ digits, ∀ v, digitValue ch = some v → (if m = 16 then 16 else 10) ≤ v) →
          exec (.lds d m) s = .next (s.faultEntry .badDigit))))

/-- R95: the digits and their values; every other byte is none. -/
def Obligations.DigitTable : Prop :=
  (∀ v < 10, digitValue (BitVec.ofNat 8 (0x30 + v)) = some v) ∧
  (∀ v < 6, digitValue (BitVec.ofNat 8 (0x61 + v)) = some (10 + v) ∧
    digitValue (BitVec.ofNat 8 (0x41 + v)) = some (10 + v)) ∧
  (∀ ch : Byte, (ch.toNat < 0x30 ∨ (0x39 < ch.toNat ∧ ch.toNat < 0x41) ∨ (0x46 < ch.toNat ∧ ch.toNat < 0x61) ∨
    0x66 < ch.toNat) → digitValue ch = none)

/-- R94: every occurrence of the six characters is stripped, wherever it stands, and no other byte is: LDS
cannot tell two contents apart that differ in whitespace only, and any other byte that is neither a digit
nor `-` is a bad digit. -/
def Obligations.WhitespaceIsStripped : Prop :=
  (∀ (d : RegIdx) (m : BitVec 8) (s t : State), s.cfg = t.cfg → s.bufferHolds s.iolen.toNat = true →
    t.bufferHolds t.iolen.toNat = true → withoutWhitespace s.content = withoutWhitespace t.content →
    (∃ c, exec (.lds d m) s = .next (s.faultEntry c) ∧ exec (.lds d m) t = .next (t.faultEntry c)) ∨
    ∃ A, exec (.lds d m) s = .next (s.setR d A).complete ∧ exec (.lds d m) t = .next (t.setR d A).complete) ∧
  (∀ (d : RegIdx) (m : BitVec 8) (s : State), m = 0 ∨ m = 10 ∨ m = 16 → s.bufferHolds s.iolen.toNat = true →
    (∃ ch ∈ s.content, ch ∉ whitespaceBytes ∧ ch ≠ 0x2D ∧ digitValue ch = none) →
    exec (.lds d m) s = .next (s.faultEntry .badDigit))

/-- R181, R182, R183: STS writes the string of the value in the base, or faults as listed. For a string of
2^32 characters or more what `IOLEN` holds is the model's free value (log 13). -/
def Obligations.StsWritesTheString : Prop :=
  ∀ (a : RegIdx) (m : BitVec 8) (s : State),
    (s.rReg a = none → exec (.sts a m) s = .next (s.faultEntry .uninit)) ∧
    ∀ A : Integer, s.rReg a = some A → A.canonical = true →
      (m ≠ 0 ∧ m ≠ 10 ∧ m ≠ 16 → exec (.sts a m) s = .next (s.faultEntry .base)) ∧
      (m = 0 ∨ m = 10 ∨ m = 16 →
        let text := signedDigits (if m = 16 then 16 else 10) A
        (s.bufferHolds text.length = true → StoresText (.sts a m) s text) ∧
        (s.bufferHolds text.length = false → exec (.sts a m) s = .next (s.faultEntry .capacity)))

/-- R182: the 24-bit groups give the hexadecimal digits of the magnitude. -/
def Obligations.HexStringIsPositional : Prop :=
  ∀ A : Integer, A.canonical = true → hexText A = signedDigits 16 A

/-- R183: the chunks of six give the decimal digits of the magnitude. -/
def Obligations.DecStringIsPositional : Prop :=
  ∀ A : Integer, A.canonical = true → decText A = signedDigits 10 A

/-- R99: STS then LDS with the same base field brings the value back, given a buffer large enough (and a
length that `IOLEN` can hold, log 13). -/
def Obligations.FormatThenParseRoundTrip : Prop :=
  ∀ (a d : RegIdx) (m : BitVec 8) (s : State) (A : Integer), s.rReg a = some A → s.cfg.holds A = true →
    m = 0 ∨ m = 10 ∨ m = 16 → s.bufferHolds (stsText A m).length = true → (stsText A m).length < 2 ^ 32 →
    ∃ t, exec (.sts a m) s = .next t ∧ exec (.lds d m) t = .next (t.setR d A).complete

/-! ## Integers and arithmetic -/

/-- R10: `val` and `int` are inverse bijections between canonical Integers and the integers, and what
`mag`, `val`, the sign, the limbs and the length of `int(z)` are. -/
def Obligations.IntegerValueBijection : Prop :=
  (∀ A : Integer, A.mag = ∑ i ∈ Finset.range A.length, (A.limbs.getD i 0).toNat * 2 ^ (26 * i)) ∧
  (∀ A : Integer, A.val = if A.sign then -(A.mag : Int) else (A.mag : Int)) ∧
  (∀ z : Int, (Integer.ofInt z).canonical = true ∧ (Integer.ofInt z).val = z) ∧
  (∀ A : Integer, A.canonical = true → Integer.ofInt A.val = A) ∧
  (∀ z : Int, (Integer.ofInt z).sign = decide (z < 0) ∧
    (Integer.ofInt z).length = max 1 ((Nat.size z.natAbs + 25) / 26) ∧
    (z ≠ 0 → (Integer.ofInt z).limbs.map BitVec.toNat = Nat.digits (2 ^ 26) z.natAbs)) ∧
  Integer.ofInt 0 = { sign := false, limbs := [0] }

/-- R119, R120, R134: ADD and ADDIP write the sum. -/
def Obligations.AddWritesTheSum : Prop :=
  ∀ d a b : RegIdx, BinaryContract (.add d a b) d a b (fun x y => x + y) ∧
    BinaryContract (.addip d b) d d b (fun x y => x + y)

/-- R121, R122, R134: SUB and SUBIP write the difference. -/
def Obligations.SubWritesTheDifference : Prop :=
  ∀ d a b : RegIdx, BinaryContract (.sub d a b) d a b (fun x y => x - y) ∧
    BinaryContract (.subip d b) d d b (fun x y => x - y)

/-- R123, R124, R125, R134: MUL and MULIP write the product, SQR the square. -/
def Obligations.MulWritesTheProduct : Prop :=
  ∀ d a b : RegIdx, BinaryContract (.mul d a b) d a b (fun x y => x * y) ∧
    BinaryContract (.mulip d b) d d b (fun x y => x * y) ∧
    UnaryContract (.sqr d a) d a (fun x => x * x)

/-- R126, R127: NEG writes the negation, MOV the value itself. -/
def Obligations.NegAndMovWriteTheirValue : Prop :=
  ∀ d a : RegIdx, ShorteningContract (.neg d a) d a (fun x => -x) ∧
    ShorteningContract (.mov d a) d a (fun x => x)

/-- R128, R129: SHL and SHLIP write the value times `2^n`. -/
def Obligations.LeftShiftsMultiply : Prop :=
  ∀ (d a : RegIdx) (imm : BitVec 32),
    UnaryContract (.shl d a imm) d a (fun x => x * 2 ^ imm.toNat) ∧
    UnaryContract (.shlip d imm) d d (fun x => x * 2 ^ imm.toNat)

/-- R117, R130, R132: SHR and SHRIP divide by `2^n` toward zero. -/
def Obligations.RightShiftsDivideTowardZero : Prop :=
  ∀ (d a : RegIdx) (imm : BitVec 32),
    ShorteningContract (.shr d a imm) d a (fun x => x.tdiv (2 ^ imm.toNat)) ∧
    ShorteningContract (.shrip d imm) d d (fun x => x.tdiv (2 ^ imm.toNat))

/-- R131, R133: SHRO and SHRIPO also write the bits shifted out. -/
def Obligations.SideOutputsAreTheBitsShiftedOut : Prop :=
  ∀ (d c a : RegIdx) (imm : BitVec 32),
    SideOutputContract (.shro d c a imm) d c a imm.toNat ∧
    SideOutputContract (.shripo d c imm) d c d imm.toNat

/-- R265: any number of ADDIP commands on one receiver leaves the exact sum, canonical, and every other
register as it was. -/
def Obligations.RepeatedAddipIsExact : Prop :=
  ∀ (n : Nat) (d b : RegIdx) (s : State) (A B : Integer), d ≠ b → s.rReg d = some A → s.rReg b = some B →
    A.canonical = true → B.canonical = true →
    (∀ k ≤ n, s.cfg.fits (Integer.ofInt (A.val + k * B.val)) = true) →
    ∃ t, runCommands (List.replicate n (.addip d b)) s = .next t ∧
      t.rReg d = some (Integer.ofInt (A.val + n * B.val)) ∧ ∀ j, j ≠ d → t.rReg j = s.rReg j

/-- R24, R111, R112, R114: the limb algorithms give the magnitudes their comments state, on any limb
sequences at all; `norm` keeps the magnitude and makes the Integer canonical. -/
def Obligations.LimbDatapathIsExact : Prop :=
  (∀ A B : List Limb, magnitude (addMag A B) = magnitude A + magnitude B) ∧
  (∀ A B : List Limb, magnitude B ≤ magnitude A → magnitude (subMag A B) = magnitude A - magnitude B) ∧
  (∀ A B : List Limb, magnitude (mulMag A B) = magnitude A * magnitude B) ∧
  (∀ (sign : Bool) (ls : List Limb), (normalize sign ls).canonical = true ∧
    (normalize sign ls).mag = magnitude ls ∧
    (normalize sign ls).sign = (sign && decide (magnitude ls ≠ 0)))

/-- R115, R116: the two-stage shifts give the magnitudes their comments state. -/
def Obligations.ShiftDatapathIsExact : Prop :=
  ∀ (A : List Limb) (n : Nat),
    magnitude (shlMag A n) = magnitude A * 2 ^ n ∧
    magnitude (shrKept A n) = magnitude A / 2 ^ n ∧
    magnitude (shrOut A n) = magnitude A % 2 ^ n

/-! ## Division -/

/-- R152: the pair the divider delivers, and that no other pair meets the contract. -/
def Obligations.DividerMeetsItsContract : Prop :=
  ∀ A B : Integer, A.canonical = true → B.canonical = true → 0 < B.mag →
    let Contract := fun q r : Integer =>
      q.mag = A.mag / B.mag ∧ r.mag = A.mag - q.mag * B.mag ∧ q.mag * B.mag ≤ A.mag ∧ r.mag < B.mag ∧
      q.canonical = true ∧ q.sign = false ∧ r.canonical = true ∧ r.sign = false
    Contract (divmodMag A.abs B.abs).1 (divmodMag A.abs B.abs).2 ∧
    ∀ q r, Contract q r → (q, r) = divmodMag A.abs B.abs

/-- R156 to R159, R161: the three division commands give the quotient and remainder columns of the table, and
always complete on a divisor that is not zero. -/
def Obligations.DivisionFollowsTheSignTable : Prop :=
  ∀ (d c a b : RegIdx) (s : State) (A B : Integer), s.rReg a = some A → s.rReg b = some B →
    s.cfg.holds A = true → s.cfg.holds B = true → B.val ≠ 0 →
    exec (.divq d a b) s = .next (s.setR d (Integer.ofInt (quotientOf A.val B.val))).complete ∧
    exec (.divr d a b) s = .next (s.setR d (Integer.ofInt (remainderOf A.val B.val))).complete ∧
    (d ≠ c → exec (.divqr d c a b) s =
      .next ((s.setR d (Integer.ofInt (quotientOf A.val B.val))).setR c
        (Integer.ofInt (remainderOf A.val B.val))).complete)

/-- R151: a zero divisor raises `F_DIVZERO` in every mode, whatever the dividend. -/
def Obligations.DivisionByZeroFaults : Prop :=
  ∀ (d c a b : RegIdx) (s : State) (A B : Integer), s.rReg a = some A → s.rReg b = some B → B.isZero = true →
    exec (.divq d a b) s = .next (s.faultEntry .divZero) ∧
    exec (.divr d a b) s = .next (s.faultEntry .divZero) ∧
    (d ≠ c → exec (.divqr d c a b) s = .next (s.faultEntry .divZero))

/-- R17, R171, R205: the value-level `rem` and halving used on internal temporaries (log 17) are DIVR's
remainder and SHR's result with count 1. -/
def Obligations.TemporariesUseTheCommandsArithmetic : Prop :=
  (∀ A B : Integer, A.canonical = true → B.canonical = true → B.val ≠ 0 →
    remVal A.val B.val = (divrem A B).2.val) ∧
  (∀ A : Integer, A.canonical = true → halfVal A.val = (A.shr 1).val)

/-! ## The modular inverse -/

/-- R172, R173: for a positive odd modulus and a value with an inverse, MODINV writes the inverse below the
modulus and completes; a zero modulus raises `F_DIVZERO`. -/
def Obligations.ModinvWritesTheInverse : Prop :=
  ∀ (d a b : RegIdx) (s : State) (A P : Integer), s.rReg a = some A → s.rReg b = some P →
    A.canonical = true → s.cfg.holds P = true →
    (∀ x : Int, 0 < P.val → P.val % 2 = 1 → 0 ≤ x → x < P.val → A.val * x % P.val = 1 % P.val →
      exec (.modinv d a b) s = .next (s.setR d (Integer.ofInt x)).complete) ∧
    (P.val = 0 → exec (.modinv d a b) s = .next (s.faultEntry .divZero))

/-- R173: what the loop of R171 delivers under the preconditions of R170, and that it is the only such
value. -/
def Obligations.InversePostcondition : Prop :=
  ∀ a p : Int, 0 < p → p % 2 = 1 → Int.gcd a p = 1 →
    (Integer.ofInt (inverseVal a p)).canonical = true ∧
    0 ≤ inverseVal a p ∧ inverseVal a p < p ∧
    (1 < p → remVal (a * inverseVal a p) p = 1) ∧ (p = 1 → inverseVal a p = 0) ∧
    ∀ x : Int, 0 ≤ x → x < p → (a * x) % p = 1 % p → x = inverseVal a p

/-- R175, R213, R250: on an undefined input MODINV, PADD, PDBL and PMUL raise no fault and write nothing but
their destination: they stay busy, or complete with a value that nothing constrains but the capacity
(log 5, 6). R207, R215, C7: PADD of Points with equal x coordinates is such an input whatever the modulus but
zero, `PADD Pd, Pa, Pa` among them. -/
def Obligations.UndefinedInputsWaitOrComplete : Prop :=
  ∀ (d a b : RegIdx) (s : State), s.cfg.wf = true →
    (∀ A P : Integer, s.rReg a = some A → s.rReg b = some P → P.val ≠ 0 →
      ¬(0 < P.val ∧ P.val % 2 = 1 ∧ Int.gcd A.val P.val = 1) → UndefinedInteger (.modinv d a b) d s) ∧
    (∀ (X Y : Point) (k : CurveContext), s.pReg a = some X → s.pReg b = some Y → s.curve = some k →
      k.p.val ≠ 0 →
      X.x.val = Y.x.val ∨ ¬(0 < k.p.val ∧ k.p.val % 2 = 1 ∧ Int.gcd (Y.x.val - X.x.val) k.p.val = 1) →
      UndefinedPoint (.padd d a b) d s) ∧
    (∀ (X : Point) (k : CurveContext), s.pReg a = some X → s.curve = some k → k.p.val ≠ 0 →
      ¬(X.x.val = 0 ∧ X.y.val = 0) →
      ¬(0 < k.p.val ∧ k.p.val % 2 = 1 ∧ Int.gcd (2 * X.y.val) k.p.val = 1) →
      UndefinedPoint (.pdbl d a) d s) ∧
    (∀ (k : Integer) (Q : Point) (E : CurveContext), s.rReg a = some k → s.pReg b = some Q →
      s.curve = some E → 0 < k.val → k.val ≤ E.n.val → E.p.val ≠ 0 →
      multiplyPoint k.val.toNat (pointVal Q) E.p.val = none → UndefinedPoint (.pmul d a b) d s)

/-! ## Points -/

/-- R191 to R194: PMK, PGX, PGY and PMOV copy, and change no value. -/
def Obligations.PointCommandsCopy : Prop :=
  ∀ (d a b : RegIdx) (s : State),
    (∀ x y : Integer, s.rReg a = some x → s.rReg b = some y → s.cfg.fits x = true → s.cfg.fits y = true →
      exec (.pmk d a b) s = .next (s.setP d { x := x, y := y }).complete) ∧
    (∀ X : Point, s.pReg a = some X → s.cfg.fitsPoint X = true →
      exec (.pgx d a) s = .next (s.setR d X.x).complete ∧
      exec (.pgy d a) s = .next (s.setR d X.y).complete ∧
      exec (.pmov d a) s = .next (s.setP d X).complete)

/-- R195: PEQ writes whether the two Points are the same pair of Integers, and nothing else. -/
def Obligations.PeqComparesValues : Prop :=
  ∀ (a b : RegIdx) (s : State) (X Y : Point), s.pReg a = some X → s.pReg b = some Y →
    X.x.canonical = true → X.y.canonical = true → Y.x.canonical = true → Y.y.canonical = true →
    exec (.peq a b) s =
      .next { s with status := { busy := false, eq := decide (X = Y), fault := s.status.fault } }

/-- R196: PSTS writes `(x_hex, y_hex)`, or raises `F_CAPACITY`. `IOLEN` is the string's length if that is
below 2^32; for a longer string it is the model's free value (log 13). -/
def Obligations.PstsWritesThePoint : Prop :=
  ∀ (a : RegIdx) (s : State) (X : Point), s.pReg a = some X → X.x.canonical = true → X.y.canonical = true →
    let text := [0x28] ++ signedDigits 16 X.x ++ [0x2C, 0x20] ++ signedDigits 16 X.y ++ [0x29]
    (s.bufferHolds text.length = true → StoresText (.psts a) s text) ∧
    (s.bufferHolds text.length = false → exec (.psts a) s = .next (s.faultEntry .capacity))

/-! ## The curve unit -/

/-- R30, R202, R203, R204: CSEL and CSET write the context whole, PLDG copies its base point. The constants
are PRESUMED, the spec's own general knowledge (log 15). -/
def Obligations.CurveContextCommands : Prop :=
  ∀ s : State,
    (∀ imm : BitVec 32, imm ≠ 0 → exec (.csel imm) s = .next (s.faultEntry .noCurve)) ∧
    (s.cfg.admits 10 = true → exec (.csel 0) s =
      .next { s with curve := some {
        p := Integer.ofInt (2 ^ 256 - 2 ^ 32 - 977)
        n := Integer.ofInt 0xFFFFFFFFFFFFFFFFFFFFFFFFFFFFFFFEBAAEDCE6AF48A03BBFD25E8CD0364141
        g := {
          x := Integer.ofInt 0x79BE667EF9DCBBAC55A06295CE870B07029BFCDB2DCE28D959F2815B16F81798
          y := Integer.ofInt 0x483ADA7726A3C4655DA4FBFC0E1108A8FD17B448A68554199C47D08FFB10D4B8 } } }.complete) ∧
    (s.cfg.admits 10 = false → exec (.csel 0) s = .next (s.faultEntry .capacity)) ∧
    (∀ (a b c : RegIdx) (p n : Integer) (g : Point), s.rReg a = some p → s.rReg b = some n →
      s.pReg c = some g → s.cfg.fits p = true → s.cfg.fits n = true → s.cfg.fitsPoint g = true →
      exec (.cset a b c) s = .next { s with curve := some { p := p, n := n, g := g } }.complete) ∧
    (∀ (d : RegIdx) (k : CurveContext), s.curve = some k → s.cfg.fitsPoint k.g = true →
      exec (.pldg d) s = .next (s.setP d k.g).complete) ∧
    (∀ d : RegIdx, s.curve = none → exec (.pldg d) s = .next (s.faultEntry .noCurve))

/-- R206, R207: PADD writes the chord formula's Point, for any inverse `i` of `x2 - x1`; a zero modulus
raises `F_DIVZERO`. Equal x coordinates are undefined (UndefinedInputsWaitOrComplete); for `p > 1` they have no
such `i`, for `p = 1` C7 decides (log 27). -/
def Obligations.PaddWritesTheSum : Prop :=
  ∀ (d a b : RegIdx) (s : State) (X Y : Point) (k : CurveContext), s.pReg a = some X → s.pReg b = some Y →
    s.curve = some k → s.cfg.holds k.p = true →
    let p := k.p.val
    (∀ i : Int, 0 < p → p % 2 = 1 → X.x.val ≠ Y.x.val → (Y.x.val - X.x.val) * i % p = 1 % p →
      let lam := (Y.y.val - X.y.val) * i % p
      let xr := (lam * lam - X.x.val - Y.x.val) % p
      let yr := (lam * (X.x.val - xr) - X.y.val) % p
      exec (.padd d a b) s = .next (s.setP d { x := Integer.ofInt xr, y := Integer.ofInt yr }).complete) ∧
    (p = 0 → exec (.padd d a b) s = .next (s.faultEntry .divZero))

/-- R208, R209, R210: PDBL writes the tangent formula's Point, for any inverse `i` of `2 y`; `(0, 0)` doubles
to itself for every modulus but zero, which raises `F_DIVZERO`. For the modulus 1 that another Point has a
double is the model's choice (log 28). -/
def Obligations.PdblWritesTheDouble : Prop :=
  ∀ (d a : RegIdx) (s : State) (X : Point) (k : CurveContext), s.pReg a = some X → s.curve = some k →
    s.cfg.wf = true → s.cfg.holds k.p = true →
    let p := k.p.val
    let x := X.x.val
    let y := X.y.val
    (∀ i : Int, 0 < p → p % 2 = 1 → ¬(x = 0 ∧ y = 0) → 2 * y * i % p = 1 % p →
      let lam := 3 * (x * x) * i % p
      let xr := (lam * lam - 2 * x) % p
      let yr := (lam * (x - xr) - y) % p
      exec (.pdbl d a) s = .next (s.setP d { x := Integer.ofInt xr, y := Integer.ofInt yr }).complete) ∧
    (p ≠ 0 → x = 0 → y = 0 →
      exec (.pdbl d a) s = .next (s.setP d { x := Integer.ofInt 0, y := Integer.ofInt 0 }).complete) ∧
    (p = 0 → exec (.pdbl d a) s = .next (s.faultEntry .divZero))

/-- R212: PMUL writes the scalar multiple of R211 where every step is defined; the scalar 1 copies the Point
whatever the modulus; the range is `0 < k <= n`; a zero modulus matters from 2 on. Which
doublings are defined for the modulus 1 is the model's choice (log 28). -/
def Obligations.PmulWritesTheMultiple : Prop :=
  ∀ (d a b : RegIdx) (s : State) (k : Integer) (Q : Point) (E : CurveContext), s.rReg a = some k →
    s.pReg b = some Q → s.curve = some E →
    (k.val ≤ 0 ∨ E.n.val < k.val → exec (.pmul d a b) s = .next (s.faultEntry .range)) ∧
    (0 < k.val → k.val ≤ E.n.val →
      (k.val = 1 → s.cfg.holdsPoint Q = true → exec (.pmul d a b) s = .next (s.setP d Q).complete) ∧
      (2 ≤ k.val → E.p.val = 0 → exec (.pmul d a b) s = .next (s.faultEntry .divZero)) ∧
      (2 ≤ k.val → E.p.val ≠ 0 → s.cfg.wf = true → s.cfg.holds E.p = true →
        ∀ v, multiplyPoint k.val.toNat (pointVal Q) E.p.val = some v →
          exec (.pmul d a b) s =
            .next (s.setP d { x := Integer.ofInt v.1, y := Integer.ofInt v.2 }).complete))

/-- R211: double-and-add from the most significant bit: the multiple for `k` with one more bit appended is
the double, and for a 1 bit the addition of `Q` to it. -/
def Obligations.MultiplyPointIsDoubleAndAdd : Prop :=
  ∀ (Q : PointVal) (p : Int),
    multiplyPoint 1 Q p = some Q ∧
    ∀ k : Nat, 1 ≤ k →
      multiplyPoint (2 * k) Q p = (multiplyPoint k Q p).bind (fun acc => doublePoint acc p) ∧
      multiplyPoint (2 * k + 1) Q p =
        (multiplyPoint k Q p).bind fun acc => (doublePoint acc p).bind fun acc2 => addPoints acc2 Q p

/-- R205: every coordinate of a sum or a double is in `[0, p)`, and the result depends only on the residues of
the input coordinates; the Point `(0, 0)`, whose double R210 fixes apart, is left out of the latter. For
`p > 1` whether there is a sum depends on the residues only as well; for `p = 1` equal x coordinates have none
(C7, log 27), and that every Point has a double is the model's choice (log 28). -/
def Obligations.CurveResultsDependOnResidues : Prop :=
  ∀ (p : Int) (P P' Q Q' : PointVal), 0 < p → SameResidues p P P' → SameResidues p Q Q' →
    (1 < p → addPoints P Q p = addPoints P' Q' p) ∧
    (∀ v v', addPoints P Q p = some v → addPoints P' Q' p = some v' → v = v') ∧
    (P ≠ (0, 0) → P' ≠ (0, 0) → doublePoint P p = doublePoint P' p) ∧
    (∀ v, addPoints P Q p = some v ∨ doublePoint P p = some v →
      0 ≤ v.1 ∧ v.1 < p ∧ 0 ≤ v.2 ∧ v.2 < p)

/-- R206: the addition is commutative in value, and undefined alike; R215, C7: it is never defined on equal
x coordinates, so never on a Point and itself. -/
def Obligations.AdditionCommutes : Prop :=
  ∀ (P Q : PointVal) (p : Int), addPoints P Q p = addPoints Q P p ∧ (P.1 = Q.1 → addPoints P Q p = none)

/-- R200: the formulas work on `y² = x³ + b`: sums, doubles and multiples of Points of such a curve lie on
it, whatever `b`, wherever they are defined. -/
def Obligations.ResultsStayOnTheCurve : Prop :=
  ∀ (b p : Int) (P Q : PointVal), OnCurve b p P → OnCurve b p Q →
    (∀ v, addPoints P Q p = some v → OnCurve b p v) ∧
    (∀ v, doublePoint P p = some v → OnCurve b p v) ∧
    (∀ k v, 1 ≤ k → multiplyPoint k P p = some v → OnCurve b p v)
end

