-- ==== Sys2Proof/Laws/Encoding.lean ====
section
/-! SUPPORT. The fields of a word and the word of some fields: each undoes the other, so no bit of an
encoding is dropped. -/

namespace Sys2Proof

theorem fieldsOf_packFields (f : Fields) : fieldsOf (packFields f) = f := by
  obtain ⟨op, d, a, b, c, m, imm⟩ := f
  simp only [fieldsOf, packFields, Fields.mk.injEq]
  refine ⟨?_, ?_, ?_, ?_, ?_, ?_, ?_⟩ <;>
  · ext i hi
    simp [BitVec.getElem_extractLsb']
    grind

theorem packFields_fieldsOf (w : BitVec 64) : packFields (fieldsOf w) = w := by
  ext i hi
  simp only [packFields, fieldsOf]
  grind

/-- A word is determined by its fields. -/
theorem fieldsOf_injective {v w : BitVec 64} (h : fieldsOf v = fieldsOf w) : v = w := by
  rw [← packFields_fieldsOf v, h, packFields_fieldsOf]

theorem ifZero_eq_ok (op : BitVec 8) (u : Bool) (i j : Instr) : ifZero op u i = .ok j ↔ u = true ∧ i = j := by
  cases u <;> simp [ifZero]

end Sys2Proof
end

