-- ==== Sys2Proof/Laws/State.lean ====
section
/-! SUPPORT. What each update of the state leaves in each field: no later proof unfolds a record update. -/

namespace Sys2Proof.Machine

/-! ### setR -/

@[simp] theorem State.setR_cfg (s : State) (i : RegIdx) (A : Integer) : (s.setR i A).cfg = s.cfg := rfl
@[simp] theorem State.setR_r (s : State) (i : RegIdx) (A : Integer) : (s.setR i A).r = s.r.set i.toNat (some A) i.isLt := rfl
@[simp] theorem State.setR_p (s : State) (i : RegIdx) (A : Integer) : (s.setR i A).p = s.p := rfl
@[simp] theorem State.setR_curve (s : State) (i : RegIdx) (A : Integer) : (s.setR i A).curve = s.curve := rfl
@[simp] theorem State.setR_status (s : State) (i : RegIdx) (A : Integer) : (s.setR i A).status = s.status := rfl
@[simp] theorem State.setR_cmdreg (s : State) (i : RegIdx) (A : Integer) : (s.setR i A).cmdreg = s.cmdreg := rfl
@[simp] theorem State.setR_iobuf (s : State) (i : RegIdx) (A : Integer) : (s.setR i A).iobuf = s.iobuf := rfl
@[simp] theorem State.setR_iolen (s : State) (i : RegIdx) (A : Integer) : (s.setR i A).iolen = s.iolen := rfl
@[simp] theorem State.setR_turns (s : State) (i : RegIdx) (A : Integer) : (s.setR i A).turns = s.turns := rfl
@[simp] theorem State.setR_replies (s : State) (i : RegIdx) (A : Integer) : (s.setR i A).replies = s.replies := rfl
@[simp] theorem State.setR_resets (s : State) (i : RegIdx) (A : Integer) : (s.setR i A).resets = s.resets := rfl
@[simp] theorem State.setR_draws (s : State) (i : RegIdx) (A : Integer) : (s.setR i A).draws = s.draws := rfl

/-! ### setP -/

@[simp] theorem State.setP_cfg (s : State) (i : RegIdx) (A : Point) : (s.setP i A).cfg = s.cfg := rfl
@[simp] theorem State.setP_r (s : State) (i : RegIdx) (A : Point) : (s.setP i A).r = s.r := rfl
@[simp] theorem State.setP_p (s : State) (i : RegIdx) (A : Point) : (s.setP i A).p = s.p.set i.toNat (some A) i.isLt := rfl
@[simp] theorem State.setP_curve (s : State) (i : RegIdx) (A : Point) : (s.setP i A).curve = s.curve := rfl
@[simp] theorem State.setP_status (s : State) (i : RegIdx) (A : Point) : (s.setP i A).status = s.status := rfl
@[simp] theorem State.setP_cmdreg (s : State) (i : RegIdx) (A : Point) : (s.setP i A).cmdreg = s.cmdreg := rfl
@[simp] theorem State.setP_iobuf (s : State) (i : RegIdx) (A : Point) : (s.setP i A).iobuf = s.iobuf := rfl
@[simp] theorem State.setP_iolen (s : State) (i : RegIdx) (A : Point) : (s.setP i A).iolen = s.iolen := rfl
@[simp] theorem State.setP_turns (s : State) (i : RegIdx) (A : Point) : (s.setP i A).turns = s.turns := rfl
@[simp] theorem State.setP_replies (s : State) (i : RegIdx) (A : Point) : (s.setP i A).replies = s.replies := rfl
@[simp] theorem State.setP_resets (s : State) (i : RegIdx) (A : Point) : (s.setP i A).resets = s.resets := rfl
@[simp] theorem State.setP_draws (s : State) (i : RegIdx) (A : Point) : (s.setP i A).draws = s.draws := rfl

/-! ### setCurve -/

@[simp] theorem State.setCurve_cfg (s : State) (k : CurveContext) : (s.setCurve k).cfg = s.cfg := rfl
@[simp] theorem State.setCurve_r (s : State) (k : CurveContext) : (s.setCurve k).r = s.r := rfl
@[simp] theorem State.setCurve_p (s : State) (k : CurveContext) : (s.setCurve k).p = s.p := rfl
@[simp] theorem State.setCurve_curve (s : State) (k : CurveContext) : (s.setCurve k).curve = some k := rfl
@[simp] theorem State.setCurve_status (s : State) (k : CurveContext) : (s.setCurve k).status = s.status := rfl
@[simp] theorem State.setCurve_cmdreg (s : State) (k : CurveContext) : (s.setCurve k).cmdreg = s.cmdreg := rfl
@[simp] theorem State.setCurve_iobuf (s : State) (k : CurveContext) : (s.setCurve k).iobuf = s.iobuf := rfl
@[simp] theorem State.setCurve_iolen (s : State) (k : CurveContext) : (s.setCurve k).iolen = s.iolen := rfl
@[simp] theorem State.setCurve_turns (s : State) (k : CurveContext) : (s.setCurve k).turns = s.turns := rfl
@[simp] theorem State.setCurve_replies (s : State) (k : CurveContext) : (s.setCurve k).replies = s.replies := rfl
@[simp] theorem State.setCurve_resets (s : State) (k : CurveContext) : (s.setCurve k).resets = s.resets := rfl
@[simp] theorem State.setCurve_draws (s : State) (k : CurveContext) : (s.setCurve k).draws = s.draws := rfl

/-! ### setEq -/

@[simp] theorem State.setEq_cfg (s : State) (b : Bool) : (s.setEq b).cfg = s.cfg := rfl
@[simp] theorem State.setEq_r (s : State) (b : Bool) : (s.setEq b).r = s.r := rfl
@[simp] theorem State.setEq_p (s : State) (b : Bool) : (s.setEq b).p = s.p := rfl
@[simp] theorem State.setEq_curve (s : State) (b : Bool) : (s.setEq b).curve = s.curve := rfl
@[simp] theorem State.setEq_status (s : State) (b : Bool) : (s.setEq b).status = { s.status with eq := b } := rfl
@[simp] theorem State.setEq_cmdreg (s : State) (b : Bool) : (s.setEq b).cmdreg = s.cmdreg := rfl
@[simp] theorem State.setEq_iobuf (s : State) (b : Bool) : (s.setEq b).iobuf = s.iobuf := rfl
@[simp] theorem State.setEq_iolen (s : State) (b : Bool) : (s.setEq b).iolen = s.iolen := rfl
@[simp] theorem State.setEq_turns (s : State) (b : Bool) : (s.setEq b).turns = s.turns := rfl
@[simp] theorem State.setEq_replies (s : State) (b : Bool) : (s.setEq b).replies = s.replies := rfl
@[simp] theorem State.setEq_resets (s : State) (b : Bool) : (s.setEq b).resets = s.resets := rfl
@[simp] theorem State.setEq_draws (s : State) (b : Bool) : (s.setEq b).draws = s.draws := rfl

/-! ### setByte -/

@[simp] theorem State.setByte_cfg (s : State) (k : Nat) (b : Byte) : (s.setByte k b).cfg = s.cfg := rfl
@[simp] theorem State.setByte_r (s : State) (k : Nat) (b : Byte) : (s.setByte k b).r = s.r := rfl
@[simp] theorem State.setByte_p (s : State) (k : Nat) (b : Byte) : (s.setByte k b).p = s.p := rfl
@[simp] theorem State.setByte_curve (s : State) (k : Nat) (b : Byte) : (s.setByte k b).curve = s.curve := rfl
@[simp] theorem State.setByte_status (s : State) (k : Nat) (b : Byte) : (s.setByte k b).status = s.status := rfl
@[simp] theorem State.setByte_cmdreg (s : State) (k : Nat) (b : Byte) : (s.setByte k b).cmdreg = s.cmdreg := rfl
@[simp] theorem State.setByte_iobuf (s : State) (k : Nat) (b : Byte) : (s.setByte k b).iobuf = { cells := insertCell k b s.iobuf.cells } := rfl
@[simp] theorem State.setByte_iolen (s : State) (k : Nat) (b : Byte) : (s.setByte k b).iolen = s.iolen := rfl
@[simp] theorem State.setByte_turns (s : State) (k : Nat) (b : Byte) : (s.setByte k b).turns = s.turns := rfl
@[simp] theorem State.setByte_replies (s : State) (k : Nat) (b : Byte) : (s.setByte k b).replies = s.replies := rfl
@[simp] theorem State.setByte_resets (s : State) (k : Nat) (b : Byte) : (s.setByte k b).resets = s.resets := rfl
@[simp] theorem State.setByte_draws (s : State) (k : Nat) (b : Byte) : (s.setByte k b).draws = s.draws := rfl

/-! ### setLength -/

@[simp] theorem State.setLength_cfg (s : State) (n : BitVec 32) : (s.setLength n).cfg = s.cfg := rfl
@[simp] theorem State.setLength_r (s : State) (n : BitVec 32) : (s.setLength n).r = s.r := rfl
@[simp] theorem State.setLength_p (s : State) (n : BitVec 32) : (s.setLength n).p = s.p := rfl
@[simp] theorem State.setLength_curve (s : State) (n : BitVec 32) : (s.setLength n).curve = s.curve := rfl
@[simp] theorem State.setLength_status (s : State) (n : BitVec 32) : (s.setLength n).status = s.status := rfl
@[simp] theorem State.setLength_cmdreg (s : State) (n : BitVec 32) : (s.setLength n).cmdreg = s.cmdreg := rfl
@[simp] theorem State.setLength_iobuf (s : State) (n : BitVec 32) : (s.setLength n).iobuf = s.iobuf := rfl
@[simp] theorem State.setLength_iolen (s : State) (n : BitVec 32) : (s.setLength n).iolen = n := rfl
@[simp] theorem State.setLength_turns (s : State) (n : BitVec 32) : (s.setLength n).turns = s.turns := rfl
@[simp] theorem State.setLength_replies (s : State) (n : BitVec 32) : (s.setLength n).replies = s.replies := rfl
@[simp] theorem State.setLength_resets (s : State) (n : BitVec 32) : (s.setLength n).resets = s.resets := rfl
@[simp] theorem State.setLength_draws (s : State) (n : BitVec 32) : (s.setLength n).draws = s.draws := rfl

/-! ### complete -/

@[simp] theorem State.complete_cfg (s : State) : s.complete.cfg = s.cfg := rfl
@[simp] theorem State.complete_r (s : State) : s.complete.r = s.r := rfl
@[simp] theorem State.complete_p (s : State) : s.complete.p = s.p := rfl
@[simp] theorem State.complete_curve (s : State) : s.complete.curve = s.curve := rfl
@[simp] theorem State.complete_status (s : State) : s.complete.status = { s.status with busy := false } := rfl
@[simp] theorem State.complete_cmdreg (s : State) : s.complete.cmdreg = s.cmdreg := rfl
@[simp] theorem State.complete_iobuf (s : State) : s.complete.iobuf = s.iobuf := rfl
@[simp] theorem State.complete_iolen (s : State) : s.complete.iolen = s.iolen := rfl
@[simp] theorem State.complete_turns (s : State) : s.complete.turns = s.turns := rfl
@[simp] theorem State.complete_replies (s : State) : s.complete.replies = s.replies := rfl
@[simp] theorem State.complete_resets (s : State) : s.complete.resets = s.resets := rfl
@[simp] theorem State.complete_draws (s : State) : s.complete.draws = s.draws := rfl

/-! ### faultEntry -/

@[simp] theorem State.faultEntry_cfg (s : State) (c : FaultCode) : (s.faultEntry c).cfg = s.cfg := rfl
@[simp] theorem State.faultEntry_r (s : State) (c : FaultCode) : (s.faultEntry c).r = s.r := rfl
@[simp] theorem State.faultEntry_p (s : State) (c : FaultCode) : (s.faultEntry c).p = s.p := rfl
@[simp] theorem State.faultEntry_curve (s : State) (c : FaultCode) : (s.faultEntry c).curve = s.curve := rfl
@[simp] theorem State.faultEntry_status (s : State) (c : FaultCode) : (s.faultEntry c).status = { s.status with busy := false, fault := c.code } := rfl
@[simp] theorem State.faultEntry_cmdreg (s : State) (c : FaultCode) : (s.faultEntry c).cmdreg = s.cmdreg := rfl
@[simp] theorem State.faultEntry_iobuf (s : State) (c : FaultCode) : (s.faultEntry c).iobuf = s.iobuf := rfl
@[simp] theorem State.faultEntry_iolen (s : State) (c : FaultCode) : (s.faultEntry c).iolen = s.iolen := rfl
@[simp] theorem State.faultEntry_turns (s : State) (c : FaultCode) : (s.faultEntry c).turns = s.turns := rfl
@[simp] theorem State.faultEntry_replies (s : State) (c : FaultCode) : (s.faultEntry c).replies = s.replies := rfl
@[simp] theorem State.faultEntry_resets (s : State) (c : FaultCode) : (s.faultEntry c).resets = s.resets := rfl
@[simp] theorem State.faultEntry_draws (s : State) (c : FaultCode) : (s.faultEntry c).draws = s.draws := rfl

/-! ### latch -/

@[simp] theorem State.latch_cfg (s : State) (w : BitVec 64) : (s.latch w).cfg = s.cfg := rfl
@[simp] theorem State.latch_r (s : State) (w : BitVec 64) : (s.latch w).r = s.r := rfl
@[simp] theorem State.latch_p (s : State) (w : BitVec 64) : (s.latch w).p = s.p := rfl
@[simp] theorem State.latch_curve (s : State) (w : BitVec 64) : (s.latch w).curve = s.curve := rfl
@[simp] theorem State.latch_status (s : State) (w : BitVec 64) : (s.latch w).status = { s.status with busy := true } := rfl
@[simp] theorem State.latch_cmdreg (s : State) (w : BitVec 64) : (s.latch w).cmdreg = w := rfl
@[simp] theorem State.latch_iobuf (s : State) (w : BitVec 64) : (s.latch w).iobuf = s.iobuf := rfl
@[simp] theorem State.latch_iolen (s : State) (w : BitVec 64) : (s.latch w).iolen = s.iolen := rfl
@[simp] theorem State.latch_turns (s : State) (w : BitVec 64) : (s.latch w).turns = s.turns := rfl
@[simp] theorem State.latch_replies (s : State) (w : BitVec 64) : (s.latch w).replies = s.replies := rfl
@[simp] theorem State.latch_resets (s : State) (w : BitVec 64) : (s.latch w).resets = s.resets := rfl
@[simp] theorem State.latch_draws (s : State) (w : BitVec 64) : (s.latch w).draws = s.draws := rfl

/-! ### reply -/

@[simp] theorem State.reply_cfg (s : State) (v : HostReply) : (s.reply v).cfg = s.cfg := rfl
@[simp] theorem State.reply_r (s : State) (v : HostReply) : (s.reply v).r = s.r := rfl
@[simp] theorem State.reply_p (s : State) (v : HostReply) : (s.reply v).p = s.p := rfl
@[simp] theorem State.reply_curve (s : State) (v : HostReply) : (s.reply v).curve = s.curve := rfl
@[simp] theorem State.reply_status (s : State) (v : HostReply) : (s.reply v).status = s.status := rfl
@[simp] theorem State.reply_cmdreg (s : State) (v : HostReply) : (s.reply v).cmdreg = s.cmdreg := rfl
@[simp] theorem State.reply_iobuf (s : State) (v : HostReply) : (s.reply v).iobuf = s.iobuf := rfl
@[simp] theorem State.reply_iolen (s : State) (v : HostReply) : (s.reply v).iolen = s.iolen := rfl
@[simp] theorem State.reply_turns (s : State) (v : HostReply) : (s.reply v).turns = s.turns := rfl
@[simp] theorem State.reply_replies (s : State) (v : HostReply) : (s.reply v).replies = s.replies ++ [v] := rfl
@[simp] theorem State.reply_resets (s : State) (v : HostReply) : (s.reply v).resets = s.resets := rfl
@[simp] theorem State.reply_draws (s : State) (v : HostReply) : (s.reply v).draws = s.draws := rfl

/-! ### hostReset -/

@[simp] theorem State.hostReset_cfg (s : State) : s.hostReset.cfg = s.cfg := rfl
@[simp] theorem State.hostReset_r (s : State) : s.hostReset.r = Vector.replicate 16 none := rfl
@[simp] theorem State.hostReset_p (s : State) : s.hostReset.p = Vector.replicate 16 none := rfl
@[simp] theorem State.hostReset_curve (s : State) : s.hostReset.curve = none := rfl
@[simp] theorem State.hostReset_status (s : State) : s.hostReset.status = { busy := false, eq := false, fault := 0 } := rfl
@[simp] theorem State.hostReset_cmdreg (s : State) : s.hostReset.cmdreg = 0 := rfl
@[simp] theorem State.hostReset_iobuf (s : State) : s.hostReset.iobuf = { cells := [] } := rfl
@[simp] theorem State.hostReset_iolen (s : State) : s.hostReset.iolen = 0 := rfl
@[simp] theorem State.hostReset_turns (s : State) : s.hostReset.turns = s.turns := rfl
@[simp] theorem State.hostReset_replies (s : State) : s.hostReset.replies = s.replies := rfl
@[simp] theorem State.hostReset_resets (s : State) : s.hostReset.resets = s.resets + 1 := rfl
@[simp] theorem State.hostReset_draws (s : State) : s.hostReset.draws = 0 := rfl

/-! ### Registers read back -/

@[simp] theorem State.rReg_setR_self (s : State) (i : RegIdx) (A : Integer) : (s.setR i A).rReg i = some A := by
  simp [State.rReg]

theorem State.rReg_setR_of_ne (s : State) {i j : RegIdx} (A : Integer) (h : j ≠ i) :
    (s.setR i A).rReg j = s.rReg j := by
  have : i.toNat ≠ j.toNat := fun e => h (BitVec.eq_of_toNat_eq e.symm)
  simp [State.rReg, this]

@[simp] theorem State.pReg_setP_self (s : State) (i : RegIdx) (A : Point) : (s.setP i A).pReg i = some A := by
  simp [State.pReg]

theorem State.pReg_setP_of_ne (s : State) {i j : RegIdx} (A : Point) (h : j ≠ i) :
    (s.setP i A).pReg j = s.pReg j := by
  have : i.toNat ≠ j.toNat := fun e => h (BitVec.eq_of_toNat_eq e.symm)
  simp [State.pReg, this]

@[simp] theorem State.pReg_setR (s : State) (i j : RegIdx) (A : Integer) : (s.setR i A).pReg j = s.pReg j := rfl
@[simp] theorem State.rReg_setP (s : State) (i j : RegIdx) (A : Point) : (s.setP i A).rReg j = s.rReg j := rfl
@[simp] theorem State.rReg_complete (s : State) (j : RegIdx) : s.complete.rReg j = s.rReg j := rfl
@[simp] theorem State.pReg_complete (s : State) (j : RegIdx) : s.complete.pReg j = s.pReg j := rfl
@[simp] theorem State.rReg_faultEntry (s : State) (c : FaultCode) (j : RegIdx) : (s.faultEntry c).rReg j = s.rReg j := rfl
@[simp] theorem State.pReg_faultEntry (s : State) (c : FaultCode) (j : RegIdx) : (s.faultEntry c).pReg j = s.pReg j := rfl
@[simp] theorem State.rReg_setCurve (s : State) (k : CurveContext) (j : RegIdx) : (s.setCurve k).rReg j = s.rReg j := rfl
@[simp] theorem State.pReg_setCurve (s : State) (k : CurveContext) (j : RegIdx) : (s.setCurve k).pReg j = s.pReg j := rfl
@[simp] theorem State.rReg_setEq (s : State) (b : Bool) (j : RegIdx) : (s.setEq b).rReg j = s.rReg j := rfl
@[simp] theorem State.pReg_setEq (s : State) (b : Bool) (j : RegIdx) : (s.setEq b).pReg j = s.pReg j := rfl
@[simp] theorem State.rReg_setLength (s : State) (n : BitVec 32) (j : RegIdx) : (s.setLength n).rReg j = s.rReg j := rfl
@[simp] theorem State.pReg_setLength (s : State) (n : BitVec 32) (j : RegIdx) : (s.setLength n).pReg j = s.pReg j := rfl

/-- No register is valid after reset (10_state.md R38). -/
@[simp] theorem State.rReg_resetWith (c : Config) (i : RegIdx) : (State.resetWith c).rReg i = none := by
  simp [State.rReg, State.resetWith]

@[simp] theorem State.pReg_resetWith (c : Config) (i : RegIdx) : (State.resetWith c).pReg i = none := by
  simp [State.pReg, State.resetWith]

@[simp] theorem State.rReg_hostReset (s : State) (i : RegIdx) : s.hostReset.rReg i = none := by
  simp [State.rReg]

@[simp] theorem State.pReg_hostReset (s : State) (i : RegIdx) : s.hostReset.pReg i = none := by
  simp [State.pReg]

end Sys2Proof.Machine
end

