-- ==== Sys2Proof/Laws/Memory.lean ====
section
/-! SUPPORT. The I/O buffer: a read after a write, and every memory operation keeps the canonical form. -/

namespace Sys2Proof.Machine

/-! ### Cells -/

@[simp] theorem lookupCell_insertCell_self (k : Nat) (b : Byte) (cs : List Host.Cell) :
    lookupCell k (insertCell k b cs) = some b := by
  induction cs with
  | nil => simp [insertCell, lookupCell]
  | cons c cs ih =>
    simp only [insertCell]
    split
    · simp [lookupCell]
    · split
      · simp [lookupCell]
      · have : c.1 ≠ k := by omega
        simp [lookupCell, this, ih]

theorem lookupCell_insertCell_of_ne {k j : Nat} (b : Byte) (cs : List Host.Cell) (h : j ≠ k) :
    lookupCell j (insertCell k b cs) = lookupCell j cs := by
  induction cs with
  | nil => simp [insertCell, lookupCell, h.symm]
  | cons c cs ih =>
    simp only [insertCell]
    split
    · simp [lookupCell, h.symm]
    · split
      · rename_i e
        have : c.1 ≠ j := by omega
        simp [lookupCell, h.symm, this]
      · simp [lookupCell, ih]

theorem risingFrom_insertCell {low k : Nat} (b : Byte) (cs : List Host.Cell) (hk : low ≤ k)
    (h : risingFrom low cs = true) : risingFrom low (insertCell k b cs) = true := by
  induction cs generalizing low with
  | nil => simpa [insertCell, risingFrom] using hk
  | cons c cs ih =>
    simp only [risingFrom, Bool.and_eq_true, decide_eq_true_eq] at h
    simp only [insertCell]
    split
    · simp only [risingFrom, Bool.and_eq_true, decide_eq_true_eq]
      exact ⟨hk, by omega, h.2⟩
    · split
      · rename_i e
        simp only [risingFrom, Bool.and_eq_true, decide_eq_true_eq]
        exact ⟨hk, by rw [e]; exact h.2⟩
      · simp only [risingFrom, Bool.and_eq_true, decide_eq_true_eq]
        exact ⟨h.1, ih (by omega) h.2⟩

theorem all_insertCell {P : Host.Cell → Bool} {k : Nat} (b : Byte) (cs : List Host.Cell)
    (hk : P (k, b) = true) (h : cs.all P = true) : (insertCell k b cs).all P = true := by
  induction cs with
  | nil => simpa [insertCell] using hk
  | cons c cs ih =>
    simp only [List.all_cons, Bool.and_eq_true] at h
    simp only [insertCell]
    split
    · simp [hk, h.1, h.2]
    · split
      · simp [hk, h.2]
      · simp [h.1, ih h.2]

/-! ### One byte of the state's buffer -/

@[simp] theorem State.readByte_setByte_self (s : State) (k : Nat) (b : Byte) : (s.setByte k b).readByte k = b := by
  simp [State.readByte]

theorem State.readByte_setByte_of_ne (s : State) {k j : Nat} (b : Byte) (h : j ≠ k) :
    (s.setByte k b).readByte j = s.readByte j := by
  simp [State.readByte, lookupCell_insertCell_of_ne b s.iobuf.cells h]

theorem State.setByte_wf (s : State) (k : Nat) (b : Byte) (h : s.iobuf.wf = true) :
    (s.setByte k b).iobuf.wf = true := risingFrom_insertCell b _ (Nat.zero_le k) h

/-! ### Several bytes -/

/-- Everything `setBytes` leaves alone: it changes `IOBUF` only. -/
theorem State.setBytes_frame (s : State) (k : Nat) (bs : List Byte) :
    s.setBytes k bs = { s with iobuf := (s.setBytes k bs).iobuf } := by
  induction bs generalizing s k with
  | nil => rfl
  | cons b bs ih => rw [State.setBytes, ih]; rfl

@[simp] theorem State.setBytes_resets (s : State) (k : Nat) (bs : List Byte) :
    (s.setBytes k bs).resets = s.resets := by rw [State.setBytes_frame]

/-- A byte below or above the written ones keeps its value (20_memory.md R52). -/
theorem State.readByte_setBytes_of_outside (s : State) {k j : Nat} (bs : List Byte)
    (h : j < k ∨ k + bs.length ≤ j) : (s.setBytes k bs).readByte j = s.readByte j := by
  induction bs generalizing s k with
  | nil => rfl
  | cons b bs ih =>
    simp only [List.length_cons] at h
    rw [State.setBytes, ih (s.setByte k b) (by omega), s.readByte_setByte_of_ne b (by omega)]

/-- The written bytes read back in order (20_memory.md R52). -/
theorem State.readByte_setBytes (s : State) (k j : Nat) (bs : List Byte) (h : j < bs.length) :
    (s.setBytes k bs).readByte (k + j) = bs[j] := by
  induction bs generalizing s k j with
  | nil => simp at h
  | cons b bs ih =>
    rw [State.setBytes]
    cases j with
    | zero =>
      rw [State.readByte_setBytes_of_outside _ bs (by omega)]
      simp
    | succ j =>
      have := ih (s.setByte k b) (k + 1) j (by simpa using h)
      simpa [Nat.add_assoc, Nat.add_comm 1 j] using this

theorem State.setBytes_wf (s : State) (k : Nat) (bs : List Byte) (h : s.iobuf.wf = true) :
    (s.setBytes k bs).iobuf.wf = true := by
  induction bs generalizing s k with
  | nil => exact h
  | cons b bs ih => exact ih _ _ (s.setByte_wf k b h)

/-- Writing at offsets that exist keeps every listed offset in range. -/
theorem State.setByte_bufferInRange (s : State) (k : Nat) (b : Byte) (hk : s.inBuffer k = true)
    (h : s.iobuf.cells.all (fun c => s.inBuffer c.1) = true) :
    (s.setByte k b).iobuf.cells.all (fun c => (s.setByte k b).inBuffer c.1) = true :=
  all_insertCell (P := fun c => s.inBuffer c.1) b _ hk h

/-! ### The buffer operations: everything they can do -/

theorem State.memRead_eq_ok (s : State) (addr n : Nat) (v : List Byte) :
    s.memRead addr n = .ok v ↔
      s.bufferHolds (addr + n) = true ∧ v = (List.range n).map fun k => s.readByte (addr + k) := by
  unfold State.memRead
  split
  · rename_i h
    simp [h, eq_comm (a := v)]
  · simp_all

theorem State.memWrite_eq_ok (s : State) (addr : Nat) (v : List Byte) (t : State) :
    s.memWrite addr v = .ok t ↔ s.bufferHolds (addr + v.length) = true ∧ t = s.setBytes addr v := by
  unfold State.memWrite
  split
  · rename_i h
    simp [h, eq_comm (a := t)]
  · simp_all

/-- LDB and LDS get the content of the buffer, or `F_CAPACITY`; they never run off its end. -/
theorem State.loadContent_eq (s : State) :
    s.loadContent =
      if s.bufferHolds s.iolen.toNat then .ok ((List.range s.iolen.toNat).map s.readByte)
      else .error (.trap .capacity) := by
  unfold State.loadContent
  split <;> simp_all [State.memRead]

/-- STS and PSTS write the text and its length, or raise `F_CAPACITY`; they never run off the end. -/
theorem State.storeText_eq (s : State) (text : List Byte) :
    s.storeText text =
      if s.bufferHolds text.length then .ok ((s.setBytes 0 text).setLength (lengthWord text.length))
      else .error (.trap .capacity) := by
  unfold State.storeText
  split
  · simp_all [State.memWrite, bind, Except.bind]
  · rfl

end Sys2Proof.Machine
end

