-- ==== Sys2Proof/Laws/Ops.lean ====
section
/-! SUPPORT. What each shared operation can do, once. -/

namespace Sys2Proof.Machine

open Host (Outcome)

/-! ### Register operands and results -/

theorem State.readR_eq_ok (s : State) (i : RegIdx) (A : Integer) : s.readR i = .ok A ↔ s.rReg i = some A := by
  unfold State.readR
  split <;> simp_all

theorem State.readR_of_valid {s : State} {i : RegIdx} {A : Integer} (h : s.rReg i = some A) : s.readR i = .ok A :=
  (s.readR_eq_ok i A).2 h

theorem State.readR_of_invalid {s : State} {i : RegIdx} (h : s.rReg i = none) :
    s.readR i = .error (.trap .uninit) := by
  simp [State.readR, h]

theorem State.readP_eq_ok (s : State) (i : RegIdx) (A : Point) : s.readP i = .ok A ↔ s.pReg i = some A := by
  unfold State.readP
  split <;> simp_all

theorem State.readP_of_valid {s : State} {i : RegIdx} {A : Point} (h : s.pReg i = some A) : s.readP i = .ok A :=
  (s.readP_eq_ok i A).2 h

theorem State.readP_of_invalid {s : State} {i : RegIdx} (h : s.pReg i = none) :
    s.readP i = .error (.trap .uninit) := by
  simp [State.readP, h]

theorem State.readCurve_eq_ok (s : State) (k : CurveContext) : s.readCurve = .ok k ↔ s.curve = some k := by
  unfold State.readCurve
  split <;> simp_all

/-- A register write stores the Integer, or, if it does not fit, raises `F_CAPACITY` (10_state.md R27). -/
theorem State.writeR_eq_ok (s : State) (i : RegIdx) (A : Integer) (t : State) :
    s.writeR i A = .ok t ↔ s.cfg.fits A = true ∧ t = s.setR i A := by
  unfold State.writeR
  split
  · rename_i h
    simp [h, eq_comm (a := t)]
  · simp_all

theorem State.writeR_of_fits {s : State} {A : Integer} (i : RegIdx) (h : s.cfg.fits A = true) :
    s.writeR i A = .ok (s.setR i A) := by
  simp [State.writeR, h]

theorem State.writeP_eq_ok (s : State) (i : RegIdx) (A : Point) (t : State) :
    s.writeP i A = .ok t ↔ s.cfg.fitsPoint A = true ∧ t = s.setP i A := by
  unfold State.writeP
  split
  · rename_i h
    simp [h, eq_comm (a := t)]
  · simp_all

theorem State.writeP_of_fits {s : State} {A : Point} (i : RegIdx) (h : s.cfg.fitsPoint A = true) :
    s.writeP i A = .ok (s.setP i A) := by
  simp [State.writeP, h]

theorem State.writeCurve_eq_ok (s : State) (k : CurveContext) (t : State) :
    s.writeCurve k = .ok t ↔
      (s.cfg.fits k.p = true ∧ s.cfg.fits k.n = true ∧ s.cfg.fitsPoint k.g = true) ∧ t = s.setCurve k := by
  unfold State.writeCurve
  split
  · rename_i h
    simp only [Bool.and_eq_true] at h
    simp [h, eq_comm (a := t)]
  · rename_i h
    simp only [Bool.and_eq_true] at h
    simp only [reduceCtorEq, false_iff]
    exact fun e => h ⟨⟨e.1.1, e.1.2.1⟩, e.1.2.2⟩

theorem destinationsDiffer_eq_ok (d c : RegIdx) : destinationsDiffer d c = .ok () ↔ d ≠ c := by
  unfold destinationsDiffer
  split <;> simp_all

/-- An undefined input is stuck, or completes with a free value in its destination. -/
theorem State.undefinedR_cases (s : State) (d : RegIdx) :
    s.undefinedR d = .error .stuck ∨
      s.undefinedR d = .ok { s.setR d (s.freeInteger 0) with draws := s.draws + 1 } := by
  unfold State.undefinedR
  split <;> simp

theorem State.undefinedP_cases (s : State) (d : RegIdx) :
    s.undefinedP d = .error .stuck ∨
      s.undefinedP d =
        .ok { s.setP d { x := s.freeInteger 0, y := s.freeInteger 1 } with draws := s.draws + 1 } := by
  unfold State.undefinedP
  split <;> simp

/-! ### The end of a command -/

@[simp] theorem finish_ok (s t : State) : finish s (.ok t) = .next t.complete := rfl
@[simp] theorem finish_trap (s : State) (c : FaultCode) :
    finish s (.error (.trap c)) = .next (s.faultEntry c) := rfl
@[simp] theorem finish_stuck (s : State) : finish s (.error .stuck) = .next s := rfl
@[simp] theorem finish_halt (s : State) (f : Fault) : finish s (.error (.halt f)) = .fault f := rfl

/-- A command that answers a next state completed, entered the fault state, or is stuck. -/
theorem finish_eq_next {s t : State} {result : Except Stop State} (h : finish s result = .next t) :
    (∃ u, result = .ok u ∧ t = u.complete) ∨
    (∃ c, result = .error (.trap c) ∧ t = s.faultEntry c) ∨
    (result = .error .stuck ∧ t = s) := by
  unfold finish at h
  split at h
  · exact .inl ⟨_, rfl, by simpa using h.symm⟩
  · exact .inr (.inl ⟨_, rfl, by simpa using h.symm⟩)
  · exact .inr (.inr ⟨rfl, by simpa using h.symm⟩)
  · cases h

/-! ### The shapes the commands share -/

/-- What a command with two Integer sources and one Integer destination can write. -/
theorem binaryOp_eq_ok (f : Integer → Integer → Integer) (d a b : RegIdx) (s t : State) :
    binaryOp f d a b s = .ok t ↔
      ∃ A B, s.rReg a = some A ∧ s.rReg b = some B ∧ s.cfg.fits (f A B) = true ∧ t = s.setR d (f A B) := by
  simp only [binaryOp, State.readR, bind, Except.bind]
  cases ha : s.rReg a <;> cases hb : s.rReg b <;> simp [State.writeR_eq_ok]

/-- What a command with one Integer source and one Integer destination can write. -/
theorem unaryOp_eq_ok (f : Integer → Integer) (d a : RegIdx) (s t : State) :
    unaryOp f d a s = .ok t ↔
      ∃ A, s.rReg a = some A ∧ s.cfg.fits (f A) = true ∧ t = s.setR d (f A) := by
  simp only [unaryOp, State.readR, bind, Except.bind]
  cases ha : s.rReg a <;> simp [State.writeR_eq_ok]

/-- What a left shift can write. -/
theorem shiftLeft_eq_ok (d a : RegIdx) (imm : BitVec 32) (s t : State) :
    shiftLeft d a imm s = .ok t ↔
      ∃ A, s.rReg a = some A ∧ s.cfg.admits (A.shlLength imm.toNat) = true ∧
        s.cfg.fits (A.shl imm.toNat) = true ∧ t = s.setR d (A.shl imm.toNat) := by
  simp only [shiftLeft, State.readR, bind, Except.bind, unsignedImm]
  cases ha : s.rReg a with
  | none => simp
  | some A =>
    simp only [Option.some.injEq, exists_eq_left']
    by_cases h : s.cfg.admits (A.shlLength imm.toNat) = true
    · simp [State.writeR_eq_ok, h]
    · simp [h]

/-- What a right shift can write. -/
theorem shiftRight_eq_ok (d a : RegIdx) (imm : BitVec 32) (s t : State) :
    shiftRight d a imm s = .ok t ↔
      ∃ A, s.rReg a = some A ∧ s.cfg.fits (A.shr imm.toNat) = true ∧ t = s.setR d (A.shr imm.toNat) := by
  simp only [shiftRight, State.readR, bind, Except.bind, unsignedImm]
  cases ha : s.rReg a <;> simp [State.writeR_eq_ok]

/-- What the three division commands have to write. -/
theorem divisionResult_eq_ok (a b : RegIdx) (s : State) (qr : Integer × Integer) :
    divisionResult a b s = .ok qr ↔
      ∃ A B, s.rReg a = some A ∧ s.rReg b = some B ∧ B.isZero = false ∧ qr = divrem A B := by
  simp only [divisionResult, State.readR, bind, Except.bind]
  cases ha : s.rReg a with
  | none => simp
  | some A =>
    cases hb : s.rReg b with
    | none => simp
    | some B => by_cases h : B.isZero = true <;> simp [h, eq_comm (a := qr)]

/-- An addition gives a Point exactly when the x coordinates differ and the inverse is defined. -/
theorem addPoints_isSome (P Q : PointVal) (p : Int) :
    (addPoints P Q p).isSome = true ↔ Q.1 - P.1 ≠ 0 ∧ inverseDefined (Q.1 - P.1) p = true := by
  unfold addPoints
  dsimp only
  split <;> simp_all

/-- What a curve command does with its value. -/
theorem pointResult_some (d : RegIdx) (v : PointVal) (s : State) :
    pointResult d (some v) s = s.writeP d (pointOf v) := rfl

theorem pointResult_none (d : RegIdx) (s : State) : pointResult d none s = s.undefinedP d := rfl

end Sys2Proof.Machine
end

