-- ==== Sys2Proof/Laws/PerInstr.lean ====
section
/-! SUPPORT. Per-instruction family `FieldsOfWord`: the fields read from a command's word are the fields
its row and operands give it. -/

namespace Sys2Proof.Laws

/-- The word of a command holds its fields, each where 30_encoding.md R71 puts it. -/
def FieldsOfWord.Statement (i : Instr) : Prop := fieldsOf (encode i) = i.fields

theorem FieldsOfWord.ldi (d : RegIdx) (imm : BitVec 32) : FieldsOfWord.Statement (.ldi d imm) := fieldsOf_packFields _
theorem FieldsOfWord.ldb (d : RegIdx) : FieldsOfWord.Statement (.ldb d) := fieldsOf_packFields _
theorem FieldsOfWord.lds (d : RegIdx) (m : BitVec 8) : FieldsOfWord.Statement (.lds d m) := fieldsOf_packFields _
theorem FieldsOfWord.sts (a : RegIdx) (m : BitVec 8) : FieldsOfWord.Statement (.sts a m) := fieldsOf_packFields _
theorem FieldsOfWord.add (d a b : RegIdx) : FieldsOfWord.Statement (.add d a b) := fieldsOf_packFields _
theorem FieldsOfWord.addip (d b : RegIdx) : FieldsOfWord.Statement (.addip d b) := fieldsOf_packFields _
theorem FieldsOfWord.sub (d a b : RegIdx) : FieldsOfWord.Statement (.sub d a b) := fieldsOf_packFields _
theorem FieldsOfWord.subip (d b : RegIdx) : FieldsOfWord.Statement (.subip d b) := fieldsOf_packFields _
theorem FieldsOfWord.mul (d a b : RegIdx) : FieldsOfWord.Statement (.mul d a b) := fieldsOf_packFields _
theorem FieldsOfWord.mulip (d b : RegIdx) : FieldsOfWord.Statement (.mulip d b) := fieldsOf_packFields _
theorem FieldsOfWord.sqr (d a : RegIdx) : FieldsOfWord.Statement (.sqr d a) := fieldsOf_packFields _
theorem FieldsOfWord.neg (d a : RegIdx) : FieldsOfWord.Statement (.neg d a) := fieldsOf_packFields _
theorem FieldsOfWord.mov (d a : RegIdx) : FieldsOfWord.Statement (.mov d a) := fieldsOf_packFields _
theorem FieldsOfWord.shl (d a : RegIdx) (imm : BitVec 32) : FieldsOfWord.Statement (.shl d a imm) := fieldsOf_packFields _
theorem FieldsOfWord.shlip (d : RegIdx) (imm : BitVec 32) : FieldsOfWord.Statement (.shlip d imm) := fieldsOf_packFields _
theorem FieldsOfWord.shr (d a : RegIdx) (imm : BitVec 32) : FieldsOfWord.Statement (.shr d a imm) := fieldsOf_packFields _
theorem FieldsOfWord.shro (d c a : RegIdx) (imm : BitVec 32) : FieldsOfWord.Statement (.shro d c a imm) := fieldsOf_packFields _
theorem FieldsOfWord.shrip (d : RegIdx) (imm : BitVec 32) : FieldsOfWord.Statement (.shrip d imm) := fieldsOf_packFields _
theorem FieldsOfWord.shripo (d c : RegIdx) (imm : BitVec 32) : FieldsOfWord.Statement (.shripo d c imm) := fieldsOf_packFields _
theorem FieldsOfWord.divq (d a b : RegIdx) : FieldsOfWord.Statement (.divq d a b) := fieldsOf_packFields _
theorem FieldsOfWord.divr (d a b : RegIdx) : FieldsOfWord.Statement (.divr d a b) := fieldsOf_packFields _
theorem FieldsOfWord.divqr (d c a b : RegIdx) : FieldsOfWord.Statement (.divqr d c a b) := fieldsOf_packFields _
theorem FieldsOfWord.modinv (d a b : RegIdx) : FieldsOfWord.Statement (.modinv d a b) := fieldsOf_packFields _
theorem FieldsOfWord.csel (imm : BitVec 32) : FieldsOfWord.Statement (.csel imm) := fieldsOf_packFields _
theorem FieldsOfWord.cset (a b c : RegIdx) : FieldsOfWord.Statement (.cset a b c) := fieldsOf_packFields _
theorem FieldsOfWord.pmk (d a b : RegIdx) : FieldsOfWord.Statement (.pmk d a b) := fieldsOf_packFields _
theorem FieldsOfWord.pgx (d a : RegIdx) : FieldsOfWord.Statement (.pgx d a) := fieldsOf_packFields _
theorem FieldsOfWord.pgy (d a : RegIdx) : FieldsOfWord.Statement (.pgy d a) := fieldsOf_packFields _
theorem FieldsOfWord.pmov (d a : RegIdx) : FieldsOfWord.Statement (.pmov d a) := fieldsOf_packFields _
theorem FieldsOfWord.peq (a b : RegIdx) : FieldsOfWord.Statement (.peq a b) := fieldsOf_packFields _
theorem FieldsOfWord.psts (a : RegIdx) : FieldsOfWord.Statement (.psts a) := fieldsOf_packFields _
theorem FieldsOfWord.pldg (d : RegIdx) : FieldsOfWord.Statement (.pldg d) := fieldsOf_packFields _
theorem FieldsOfWord.padd (d a b : RegIdx) : FieldsOfWord.Statement (.padd d a b) := fieldsOf_packFields _
theorem FieldsOfWord.pdbl (d a : RegIdx) : FieldsOfWord.Statement (.pdbl d a) := fieldsOf_packFields _
theorem FieldsOfWord.pmul (d a b : RegIdx) : FieldsOfWord.Statement (.pmul d a b) := fieldsOf_packFields _

end Sys2Proof.Laws
end

