-- ==== Sys2Proof/Tests/Slice0.lean ====
section
/-! SUPPORT. Own tests: the smoke test of WellFormed, one word of every command as the spec writes it
(30_encoding.md R82, 95_test_vectors.md), a step of each family with the result 95_test_vectors.md gives,
and for every statement with hypotheses a witness that meets them. -/

namespace Sys2Proof.Tests

set_option Elab.async false

open Sys2Proof.Machine
open Host (Outcome)

/-! ### WellFormed -/

theorem test_wellFormed_refuses_shro : (Instr.shro 1 1 0 3).wellFormed = false := by decide
theorem test_wellFormed_refuses_shripo : (Instr.shripo 0 0 2).wellFormed = false := by decide
theorem test_wellFormed_refuses_divqr : (Instr.divqr 2 2 0 1).wellFormed = false := by decide
theorem test_wellFormed_admits_overlap : (Instr.divqr 0 1 0 1).wellFormed = true := by decide

/-! ### Decoding: words as the spec writes them -/

theorem test_decode_ldi : decode 0x0100000000003039 = .ok (.ldi 0 12345) := by decide +kernel
theorem test_decode_ldb : decode 0x0200000000000000 = .ok (.ldb 0) := by decide +kernel
theorem test_decode_lds : decode 0x0300001000000000 = .ok (.lds 0 16) := by decide +kernel
theorem test_decode_sts : decode 0x0402001000000000 = .ok (.sts 2 16) := by decide +kernel
theorem test_decode_add : decode 0x1031200000000000 = .ok (.add 3 1 2) := by decide +kernel
theorem test_decode_addip : decode 0x1100100000000000 = .ok (.addip 0 1) := by decide +kernel
theorem test_decode_sub : decode 0x1220100000000000 = .ok (.sub 2 0 1) := by decide +kernel
theorem test_decode_subip : decode 0x1300100000000000 = .ok (.subip 0 1) := by decide +kernel
theorem test_decode_mul : decode 0x1432000000000000 = .ok (.mul 3 2 0) := by decide +kernel
theorem test_decode_mulip : decode 0x1500100000000000 = .ok (.mulip 0 1) := by decide +kernel
theorem test_decode_sqr : decode 0x1610000000000000 = .ok (.sqr 1 0) := by decide +kernel
theorem test_decode_neg : decode 0x1710000000000000 = .ok (.neg 1 0) := by decide +kernel
theorem test_decode_mov : decode 0x1850000000000000 = .ok (.mov 5 0) := by decide +kernel
theorem test_decode_shl : decode 0x19100000000003E8 = .ok (.shl 1 0 1000) := by decide +kernel
theorem test_decode_shlip : decode 0x1A00000000000003 = .ok (.shlip 0 3) := by decide +kernel
theorem test_decode_shr : decode 0x1B1000000000001E = .ok (.shr 1 0 30) := by decide +kernel
theorem test_decode_shro : decode 0x1B44050100000001 = .ok (.shro 4 5 4 1) := by decide +kernel
theorem test_decode_shrip : decode 0x1C00000000000003 = .ok (.shrip 0 3) := by decide +kernel
theorem test_decode_shripo : decode 0x1C00010100000002 = .ok (.shripo 0 1 2) := by decide +kernel
theorem test_decode_divq : decode 0x2020100100000000 = .ok (.divq 2 0 1) := by decide +kernel
theorem test_decode_divr : decode 0x2010100200000000 = .ok (.divr 1 0 1) := by decide +kernel
theorem test_decode_divqr : decode 0x2020130300000000 = .ok (.divqr 2 3 0 1) := by decide +kernel
theorem test_decode_modinv : decode 0x2120100000000000 = .ok (.modinv 2 0 1) := by decide +kernel
theorem test_decode_csel : decode 0x3000000000000001 = .ok (.csel 1) := by decide +kernel
theorem test_decode_cset : decode 0x3100100000000000 = .ok (.cset 0 1 0) := by decide +kernel
theorem test_decode_pmk : decode 0x3220100000000000 = .ok (.pmk 2 0 1) := by decide +kernel
theorem test_decode_pgx : decode 0x3320000000000000 = .ok (.pgx 2 0) := by decide +kernel
theorem test_decode_pgy : decode 0x3430000000000000 = .ok (.pgy 3 0) := by decide +kernel
theorem test_decode_pmov : decode 0x3510000000000000 = .ok (.pmov 1 0) := by decide +kernel
theorem test_decode_peq : decode 0x3600200000000000 = .ok (.peq 0 2) := by decide +kernel
theorem test_decode_psts : decode 0x3701000000000000 = .ok (.psts 1) := by decide +kernel
theorem test_decode_pldg : decode 0x3810000000000000 = .ok (.pldg 1) := by decide +kernel
theorem test_decode_padd : decode 0x3931200000000000 = .ok (.padd 3 1 2) := by decide +kernel
theorem test_decode_pdbl : decode 0x3A21000000000000 = .ok (.pdbl 2 1) := by decide +kernel
theorem test_decode_pmul : decode 0x3B54000000000000 = .ok (.pmul 5 4 0) := by decide +kernel

theorem test_decode_reserved_opcode : decode 0x0500000000000000 = .error (.reservedOpcode 5) := by decide +kernel
theorem test_decode_reserved_mode : decode 0x2020100400000000 = .error (.reservedMode 0x20 4) := by decide +kernel
theorem test_decode_nonzero_field : decode 0x1031210000000000 = .error (.nonzeroField 0x10) := by decide +kernel
theorem test_table_word : decodeTableWord 64 0x1031200000000000 = some (.add 3 1 2) := by decide +kernel
theorem test_table_is_encoder :
    (opcodeTable.map fun r => decodeTableWord 64 r.pattern.toNat).all (·.isSome) = true := by decide +kernel

theorem test_assemble : assemble "SHRO R4, R5, R4, #1 ; note" = some (.shro 4 5 4 1) := by decide +kernel
theorem test_assemble_negative : assemble "LDI R1, #-1" = some (.ldi 1 0xFFFFFFFF) := by decide +kernel
theorem test_assemble_pseudo : assemble "MOD R3, R3, R1" = some (.divr 3 3 1) := by decide +kernel
theorem test_assemble_refuses : assemble "LDI R16, #0" = none := by decide +kernel
theorem test_asm_text : (Instr.asm (.divqr 2 3 0 1)) = "DIVQR R2, R3, R0, R1" := by decide +kernel

/-! ### Small states -/

/-- Whether an outcome is a next state with a property. -/
def nextHas (o : Outcome State Fault Refusal) (p : State → Bool) : Bool :=
  match o with
  | .next t => p t
  | .fault _ | .refused _ => false

/-- The Integer with a value. -/
abbrev int (z : Int) : Integer := Integer.ofInt z

/-- A Point with the given coordinates. -/
abbrev pt (x y : Int) : Point := { x := int x, y := int y }

/-- An instance with room for ten limbs and a short buffer. -/
def small : Config := { maxLimbs := some 10, iobufSize := some 16 }

/-- An instance with two limbs a register and four bytes of buffer. -/
def tiny : Config := { maxLimbs := some 2, iobufSize := some 4 }

/-- `R0`, `R1`, `R2` with the given values, everything else as after reset. -/
def withInts (c : Config) (x y z : Int) : State :=
  (((State.resetWith c).setR 0 (int x)).setR 1 (int y)).setR 2 (int z)

/-- The buffer holding a string. -/
def withBuffer (c : Config) (text : List Byte) : State :=
  ((State.resetWith c).setBytes 0 text).setLength (BitVec.ofNat 32 text.length)

/-- The context of 46_curve.md R203: `p = 17`, `n = 9`, `G = (1, 5)`. -/
def curve17 : CurveContext := { p := int 17, n := int 9, g := pt 1 5 }

/-- A context whose modulus is zero. -/
def zeroModulus : CurveContext := { curve17 with p := int 0 }

/-- A context whose `n` is below the order of its Points, so that `k = n` has a result. -/
def order3 : CurveContext := { curve17 with n := int 3 }

/-- A context whose modulus is 1. -/
def modulusOne : CurveContext := { curve17 with p := int 1 }

/-- `P0`, `P1`, `R0` as given, on a context. -/
def withPoints (k : CurveContext) (X Y : Point) (z : Int) : State :=
  (((((State.resetWith small).setP 0 X).setP 1 Y).setR 0 (int z)).setCurve k)

/-- A busy state with a word latched. -/
def latched (w : BitVec 64) : State := (withInts small 7 (-2) 0).latch w

/-- A state with a schedule. -/
def scheduled (s : State) (ts : List HostTurn) : State := { s with turns := ts }

/-! ### One step of each family, results from 95_test_vectors.md -/

theorem test_ldi_min : nextHas (exec (.ldi 0 0x80000000) (State.resetWith small))
    (fun t => t.rReg 0 == some { sign := true, limbs := [0, 32] }) = true := by decide +kernel
theorem test_ldi_two_limbs : nextHas (exec (.ldi 0 0x04000000) (State.resetWith small))
    (fun t => t.rReg 0 == some { sign := false, limbs := [0, 1] }) = true := by decide +kernel
theorem test_ldb_scenario : nextHas (exec (.ldb 0) (withBuffer small [1, 2, 3, 4, 5]))
    (fun t => t.rReg 0 == some { sign := false, limbs := [33752069, 64] }) = true := by decide +kernel
theorem test_ldb_empty : nextHas (exec (.ldb 0) (withBuffer small [])) (fun t => t.status.fault == 3) = true := by
  decide +kernel
theorem test_lds_whitespace_and_sign :
    nextHas (exec (.lds 0 0) (withBuffer small [0x20, 0x2D, 0x31, 0x20, 0x32, 0x09, 0x33, 0x0A]))
      (fun t => t.rReg 0 == some (int (-123))) = true := by decide +kernel
theorem test_lds_base_before_digits : nextHas (exec (.lds 0 7) (withBuffer small []))
    (fun t => t.status.fault == 2) = true := by decide +kernel
theorem test_sts_hex : nextHas (exec (.sts 0 16) (withInts small (-12) 0 0))
    (fun t => t.content == [0x2D, 0x63]) = true := by decide +kernel
theorem test_sts_chunks : nextHas (exec (.sts 0 0) (withInts small 1000000 0 0))
    (fun t => t.content == [0x31, 0x30, 0x30, 0x30, 0x30, 0x30, 0x30]) = true := by decide +kernel
theorem test_add_signs : nextHas (exec (.add 3 1 2) (withInts small 0 5 (-7)))
    (fun t => t.rReg 3 == some { sign := true, limbs := [2] }) = true := by decide +kernel
theorem test_add_capacity : nextHas (exec (.add 2 0 1) (withInts tiny (2 ^ 52 - 1) 1 0))
    (fun t => t.status.fault == 8 && t.rReg 2 == some (int 0)) = true := by decide +kernel
theorem test_addip_carry : nextHas (exec (.addip 0 1) (withInts small 67108863 1 0))
    (fun t => t.rReg 0 == some { sign := false, limbs := [0, 1] }) = true := by decide +kernel
theorem test_sub_scenario : nextHas (exec (.sub 2 0 1) (withInts small 14 26 0))
    (fun t => t.rReg 2 == some { sign := true, limbs := [12] }) = true := by decide +kernel
theorem test_sub_borrow : nextHas (exec (.sub 2 0 1) (withInts small (2 ^ 52) 1 0))
    (fun t => t.rReg 2 == some { sign := false, limbs := [67108863, 67108863] }) = true := by decide +kernel
theorem test_subip_self : nextHas (exec (.subip 0 0) (withInts small (-8) 0 0))
    (fun t => t.rReg 0 == some { sign := false, limbs := [0] }) = true := by decide +kernel
theorem test_mul_two_limbs : nextHas (exec (.mul 2 0 1) (withInts small (2 ^ 52 - 1) (2 ^ 52 - 1) 0))
    (fun t => t.rReg 2 == some { sign := false, limbs := [1, 0, 67108862, 67108863] }) = true := by decide +kernel
theorem test_mul_negative_zero : nextHas (exec (.mul 2 0 1) (withInts small (-3) 0 9))
    (fun t => t.rReg 2 == some { sign := false, limbs := [0] }) = true := by decide +kernel
theorem test_mulip : nextHas (exec (.mulip 0 1) (withInts small (-3) 4 0))
    (fun t => t.rReg 0 == some (int (-12))) = true := by decide +kernel
theorem test_sqr : nextHas (exec (.sqr 1 0) (withInts small 67108864 0 0))
    (fun t => t.rReg 1 == some { sign := false, limbs := [0, 0, 1] }) = true := by decide +kernel
theorem test_neg : nextHas (exec (.neg 0 0) (withInts small (-2 ^ 60) 0 0))
    (fun t => t.rReg 0 == some { sign := false, limbs := [0, 0, 256] }) = true := by decide +kernel
theorem test_mov_invalid : nextHas (exec (.mov 0 5) (withInts small 1 1 1))
    (fun t => t.status.fault == 6 && t.rReg 0 == some (int 1)) = true := by decide +kernel
theorem test_shl : nextHas (exec (.shl 1 0 25) (withInts small 67108863 0 0))
    (fun t => t.rReg 1 == some { sign := false, limbs := [33554432, 33554431] }) = true := by decide +kernel
theorem test_shl_huge_count : nextHas (exec (.shl 1 0 0xFFFFFFFF) (withInts small 1 0 0))
    (fun t => t.status.fault == 8) = true := by decide +kernel
theorem test_shlip : nextHas (exec (.shlip 0 3) (withInts small 5 0 0))
    (fun t => t.rReg 0 == some (int 40)) = true := by decide +kernel
theorem test_shr_toward_zero : nextHas (exec (.shr 1 0 1) (withInts small (-1) 0 0))
    (fun t => t.rReg 1 == some { sign := false, limbs := [0] }) = true := by decide +kernel
theorem test_shro_source_overwritten : nextHas (exec (.shro 1 0 0 30) (withInts small (2 ^ 60 + 12345) 0 0))
    (fun t => t.rReg 1 == some (int (2 ^ 30)) && t.rReg 0 == some (int 12345)) = true := by decide +kernel
theorem test_shro_negative : nextHas (exec (.shro 1 2 0 3) (withInts small (-45) 0 0))
    (fun t => t.rReg 1 == some (int (-5)) && t.rReg 2 == some (int 5)) = true := by decide +kernel
theorem test_shrip : nextHas (exec (.shrip 0 3) (withInts small 40 0 0))
    (fun t => t.rReg 0 == some (int 5)) = true := by decide +kernel
theorem test_shripo : nextHas (exec (.shripo 0 1 2) (withInts small 13 0 0))
    (fun t => t.rReg 0 == some (int 3) && t.rReg 1 == some (int 1)) = true := by decide +kernel
theorem test_divq_long : nextHas (exec (.divq 2 0 1) (withInts small (2 ^ 104 - 1) (2 ^ 52 - 1) 0))
    (fun t => t.rReg 2 == some (int (2 ^ 52 + 1))) = true := by decide +kernel
theorem test_divr_scenario : nextHas (exec (.divr 2 0 1) (withInts small (-69527932928) 16974594 0))
    (fun t => t.rReg 2 == some (int 4096)) = true := by decide +kernel
theorem test_divqr_overlap : nextHas (exec (.divqr 0 1 0 1) (withInts small (-7) 2 0))
    (fun t => t.rReg 0 == some (int (-3)) && t.rReg 1 == some (int 1)) = true := by decide +kernel
theorem test_divq_by_zero : nextHas (exec (.divq 2 0 1) (withInts small 5 0 9))
    (fun t => t.status.fault == 1 && t.rReg 2 == some (int 9)) = true := by decide +kernel
theorem test_modinv : nextHas (exec (.modinv 2 0 1) (withInts small 3 257 0))
    (fun t => t.rReg 2 == some (int 86)) = true := by decide +kernel
theorem test_modinv_negative : nextHas (exec (.modinv 2 0 1) (withInts small (-5) 7 0))
    (fun t => t.rReg 2 == some (int 4)) = true := by decide +kernel
theorem test_pmk : nextHas (exec (.pmk 0 0 1) (withInts small 255 (-12) 0))
    (fun t => t.pReg 0 == some (pt 255 (-12))) = true := by decide +kernel
theorem test_pgx : nextHas (exec (.pgx 2 0) (withPoints curve17 (pt 5 (-9)) (pt 1 5) 0))
    (fun t => t.rReg 2 == some (int 5)) = true := by decide +kernel
theorem test_pgy : nextHas (exec (.pgy 2 0) (withPoints curve17 (pt 5 (-9)) (pt 1 5) 0))
    (fun t => t.rReg 2 == some (int (-9))) = true := by decide +kernel
theorem test_pmov : nextHas (exec (.pmov 3 0) (withPoints curve17 (pt 1 2) (pt 1 5) 0))
    (fun t => t.pReg 3 == some (pt 1 2)) = true := by decide +kernel
theorem test_peq_not_residues : nextHas (exec (.peq 0 1) (withPoints curve17 (pt 1 5) (pt 18 5) 0))
    (fun t => t.status.eq == false) = true := by decide +kernel
theorem test_peq_equal : nextHas (exec (.peq 0 1) (withPoints curve17 (pt 1 5) (pt 1 5) 0))
    (fun t => t.status.word == 2) = true := by decide +kernel
theorem test_psts : nextHas (exec (.psts 0) (withPoints curve17 (pt 255 (-12)) (pt 1 5) 0))
    (fun t => t.content == [0x28, 0x66, 0x66, 0x2C, 0x20, 0x2D, 0x63, 0x29]) = true := by decide +kernel
theorem test_csel_capacity : nextHas (exec (.csel 0) (State.resetWith { small with maxLimbs := some 9 }))
    (fun t => t.status.fault == 8 && t.curve == none) = true := by decide +kernel
theorem test_csel_pldg : nextHas (runCommands [.csel 0, .pldg 0, .pgy 1 0] (State.resetWith small))
    (fun t => t.rReg 1 == some (int 0x483ADA7726A3C4655DA4FBFC0E1108A8FD17B448A68554199C47D08FFB10D4B8)) = true := by
  decide +kernel
theorem test_cset : nextHas (exec (.cset 0 1 0) ((withInts small 17 9 0).setP 0 (pt 1 5)))
    (fun t => t.curve == some curve17) = true := by decide +kernel
theorem test_padd : nextHas (exec (.padd 3 0 1) (withPoints curve17 (pt 1 5) (pt 2 10) 0))
    (fun t => t.pReg 3 == some (pt 5 9)) = true := by decide +kernel
/-- R207, R215, C7: no result, for the modulus 1 neither. -/
theorem test_padd_self : addPoints (1, 5) (1, 5) 17 = none ∧ addPoints (1, 5) (1, 5) 1 = none ∧
    addPoints (1, 5) (2, 10) 1 = some (0, 0) := by decide +kernel
theorem test_pdbl : nextHas (exec (.pdbl 2 0) (withPoints curve17 (pt (-16) 22) (pt 1 5) 0))
    (fun t => t.pReg 2 == some (pt 2 10)) = true := by decide +kernel
theorem test_pmul : nextHas (exec (.pmul 5 0 0) (withPoints curve17 (pt 1 5) (pt 1 5) 7))
    (fun t => t.pReg 5 == some (pt 2 7)) = true := by decide +kernel
theorem test_pmul_range : nextHas (exec (.pmul 5 0 0) (withPoints curve17 (pt 1 5) (pt 1 5) 10))
    (fun t => t.status.fault == 5) = true := by decide +kernel
theorem test_issue_then_run : nextHas (Sys2Proof.core.run 2
      (scheduled State.reset [.act (.issue 0x0100000000003039), .core]))
    (fun t => t.rReg 0 == some (int 12345) && t.status.word == 0) = true := by decide +kernel
theorem test_withFetchWord : nextHas (step (State.reset.withFetchWord 64 0x0100000000003039))
    (fun t => t.rReg 0 == some (int 12345)) = true := by decide +kernel

/-! ### Witnesses: states and operands that meet the hypotheses of the statements -/

theorem witness_DecodedWordReencodes : decode 0x1B44050100000001 = .ok (.shro 4 5 4 1) := by decide +kernel

theorem witness_DecoderAgreesWithOpcodeTable :
    decode 0x0402001000000000 = .ok (.sts 2 16) ∧
    ∃ row ∈ opcodeTable, row.selects 0x2020130300000000 = true :=
  ⟨by decide +kernel, ⟨"DIVQR", 0x2000000300000000, 0xFF0000FFFFFFFFFF⟩, by decide +kernel, by decide +kernel⟩

theorem witness_OpcodeRowsAreDisjoint : ∃ row ∈ opcodeTable, row.selects 0x1B10000000000001 = true :=
  ⟨⟨"SHR", 0x1B00000000000000, 0xFF00FFFF00000000⟩, by decide +kernel, by decide +kernel⟩

theorem witness_StepRunsTheDecodedCommand :
    let s := latched 0x1020100000000000
    s.status.busy = true ∧ decode s.cmdreg = .ok (.add 2 0 1) ∧ s.turns = [] ∧
    (scheduled s [.core, .core]).turns = .core :: [.core] ∧
    (scheduled s [.act .rdLen]).turns = .act .rdLen :: [] ∧
    decodeTableWord 64 0x1020100000000000 = some (.add 2 0 1) := by decide +kernel

theorem witness_IllegalWordFaults :
    let s := latched 0x2020100400000000
    s.status.busy = true ∧ (∀ row ∈ opcodeTable, row.selects s.cmdreg = false) ∧ s.turns = [] ∧
    (scheduled s [.core]).turns = .core :: [] := by decide +kernel

theorem witness_ResetMeetsInv : small.wf = true ∧ ({ maxLimbs := some 2, iobufSize := some 1 } : Config).wf = true := by
  decide

theorem inv_withInts : (withInts small 7 (-2) 0).Inv := by
  constructor <;> decide +kernel

theorem inv_withPoints : (withPoints curve17 (pt 1 5) (pt 2 10) 7).Inv := by
  constructor <;> decide +kernel

theorem witness_StepKeepsInv :
    (latched 0x1020100000000000).Inv ∧ nextHas (step (latched 0x1020100000000000)) (fun _ => true) = true :=
  ⟨by constructor <;> decide +kernel, by decide +kernel⟩

theorem witness_ResetClearsEverything :
    (scheduled (latched 0) [.act .reset, .core]).turns = .act .reset :: [.core] ∧
    ((latched 0).faultEntry .range).status.fault = 5 := by decide +kernel

theorem witness_EnabledHostActions :
    let s := fun a : HostAction => scheduled (withBuffer tiny [0x31]) [.act a]
    (s (.wrBuf 3 9)).turns = .act (.wrBuf 3 9) :: [] ∧ (s (.wrBuf 3 9)).status.busy = false ∧
    (s (.wrBuf 3 9)).inBuffer 3 = true ∧ (s (.wrLen 4)).turns = .act (.wrLen 4) :: [] ∧
    (s (.rdBuf 0)).turns = .act (.rdBuf 0) :: [] ∧ (s (.rdBuf 0)).inBuffer 0 = true ∧
    (s .rdLen).turns = .act .rdLen :: [] ∧ (s .rdStatus).turns = .act .rdStatus :: [] ∧
    (s (.issue 1)).turns = .act (.issue 1) :: [] ∧ (s (.issue 1)).status.fault = 0 := by decide +kernel

theorem witness_DisabledHostActionsChangeNothing :
    let busy := fun a : HostAction => scheduled ((withBuffer tiny [0x31]).latch 0) [.act a]
    let idle := fun a : HostAction => scheduled (withBuffer tiny [0x31]) [.act a]
    (busy (.wrBuf 0 9)).turns = .act (.wrBuf 0 9) :: [] ∧ (busy (.wrBuf 0 9)).status.busy = true ∧
    (idle (.wrBuf 4 9)).inBuffer 4 = false ∧ (busy (.wrLen 1)).turns = .act (.wrLen 1) :: [] ∧
    (busy (.issue 1)).turns = .act (.issue 1) :: [] ∧
    (((idle (.issue 1)).faultEntry .base).status.fault ≠ 0) ∧
    (idle (.rdBuf 4)).turns = .act (.rdBuf 4) :: [] ∧ (idle (.rdBuf 4)).status.busy = false ∧
    (busy (.rdBuf 0)).turns = .act (.rdBuf 0) :: [] ∧ (busy .rdLen).turns = .act .rdLen :: [] := by
  decide +kernel

/-- The codes that no other test fixes (60_exceptions.md R231). -/
theorem test_fault_codes : nextHas (exec (.lds 0 0) (withBuffer small [0x2B])) (fun t => t.status.fault == 4) = true ∧
    nextHas (step (latched 0)) (fun t => t.status.word == 0x70) = true ∧
    nextHas (exec (.pldg 0) (State.resetWith small)) (fun t => t.status.word == 0x90) = true := by decide +kernel

theorem witness_FaultedBlockWaitsForReset :
    let s := scheduled ((withInts small 1 2 3).faultEntry .divZero) [.act (.issue 1), .core, .act .rdStatus]
    s.status.fault ≠ 0 ∧ s.status.busy = false ∧ .act .reset ∉ s.turns := by decide +kernel

theorem witness_IssuedCommandRuns :
    let s := scheduled (withInts small 7 (-2) 0) [.act (.issue (encode (.add 2 0 1))), .core, .act .rdStatus]
    s.turns = .act (.issue (encode (.add 2 0 1))) :: .core :: [.act .rdStatus] ∧ s.status.busy = false ∧
    s.status.fault = 0 := by decide +kernel

theorem witness_CommandsWriteOnlyTheirDestinations :
    let s := withInts small 7 (-2) 0
    nextHas (exec (.sts 0 16) s) (fun t => t.status.fault == 0) = true ∧ s.rReg 0 = some (int 7) ∧
    nextHas (exec (.divq 5 0 2) s) (fun t => t.status.fault == 1) = true ∧
    nextHas (exec (.psts 0) (s.setP 0 (pt 1 2))) (fun t => t.iolen == 6) = true := by decide +kernel

theorem witness_CommandsDependOnlyOnTheirOperands :
    ReadsAgree (.add 2 0 1) (withInts small 7 (-2) 0) ((withInts small 7 (-2) 99).latch 5) ∧
    ReadsAgree (.ldb 0) (withBuffer small [1, 2]) ((withBuffer small [1, 2]).setByte 2 9) := by
  refine ⟨?_, ?_⟩ <;> constructor <;> decide +kernel

theorem witness_FaultsAreTheListedOnes :
    (withInts small 7 (-2) 0).Inv ∧
    nextHas (exec (.divq 5 0 2) (withInts small 7 (-2) 0)) (fun t => t.status.fault == 1) = true :=
  ⟨inv_withInts, by decide +kernel⟩

theorem witness_FirstFaultWins :
    (Instr.divqr 1 1 0 7).wellFormed = false ∧ (Instr.pmul 0 0 0).wellFormed = true ∧
    (withInts small 1 2 3).rReg 7 = none ∧ (∃ j ∈ (Instr.add 0 1 7).readsR, (withInts small 1 2 3).rReg j = none) ∧
    (∃ j ∈ (Instr.peq 0 1).readsP, (withInts small 1 2 3).pReg j = none) ∧
    (∀ j ∈ (Instr.pmul 0 0 0).readsR, ((withInts small 0 2 3).setP 0 (pt 1 1)).rReg j ≠ none) ∧
    (∀ j ∈ (Instr.pmul 0 0 0).readsP, ((withInts small 0 2 3).setP 0 (pt 1 1)).pReg j ≠ none) ∧
    (Instr.pmul 0 0 0).readsCurve = true ∧ ((withInts small 0 2 3).setP 0 (pt 1 1)).curve = none := by
  decide +kernel

theorem witness_LdiLoadsItsImmediate : (State.resetWith tiny).cfg.wf = true := by decide

theorem witness_LdbLoadsBigEndian :
    (((State.resetWith tiny).setLength 5).bufferHolds 5 = false) ∧
    ((State.resetWith tiny).bufferHolds 0 = true) ∧
    (withBuffer tiny [3, 0xFF, 0xFF, 0xFF]).bufferHolds 4 = true ∧
    (withBuffer tiny [3, 0xFF, 0xFF, 0xFF]).iolen.toNat = 4 ∧
    tiny.fits (int 67108863) = true ∧
    (withBuffer { tiny with iobufSize := some 8 } [255, 255, 255, 255, 255, 255, 255, 255]).bufferHolds 8 = true ∧
    tiny.fits (int 18446744073709551615) = false := by decide +kernel

theorem witness_LdsLoadsTheParsedString :
    ((12 : BitVec 8) ≠ 0 ∧ (12 : BitVec 8) ≠ 10 ∧ (12 : BitVec 8) ≠ 16) ∧
    ((State.resetWith tiny).setLength 5).bufferHolds 5 = false ∧
    (let s := withBuffer tiny [0x20, 0x2D, 0x31, 0x46]
     s.bufferHolds s.iolen.toNat = true ∧ withoutWhitespace s.content = 0x2D :: [0x31, 0x46] ∧
     [0x31, 0x46].map digitValue = [1, 15].map some ∧ (∀ v ∈ [1, 15], v < 16) ∧
     tiny.fits (int (-31)) = true ∧ (∃ ch ∈ ([0x31, 0x46] : List Byte), ∀ v, digitValue ch = some v → 10 ≤ v)) ∧
    withoutWhitespace (withBuffer tiny [0x20, 0x2D]).content = 0x2D :: [] ∧
    ([] : List Byte).head? ≠ some 0x2D ∧
    (let s := withBuffer { maxLimbs := some 2, iobufSize := some 16 } [0x34, 0x35, 0x30, 0x33, 0x35, 0x39, 0x39, 0x36, 0x32, 0x37, 0x33, 0x37, 0x30, 0x34,
      0x39, 0x36]
     s.bufferHolds s.iolen.toNat = true ∧ withoutWhitespace s.content = s.content ∧
     s.content.map digitValue = [4, 5, 0, 3, 5, 9, 9, 6, 2, 7, 3, 7, 0, 4, 9, 6].map some ∧
     Nat.ofDigits 10 [4, 5, 0, 3, 5, 9, 9, 6, 2, 7, 3, 7, 0, 4, 9, 6].reverse = 4503599627370496 ∧
     s.cfg.fits (int 4503599627370496) = false) := by
  refine ⟨by decide, by decide +kernel, ⟨by decide +kernel, by decide +kernel, by decide +kernel, by decide,
    by decide +kernel, 0x46, by decide, ?_⟩, by decide +kernel, by decide, ?_⟩
  · intro v h
    have h' : digitValue 0x46 = some 15 := by decide +kernel
    rw [h'] at h
    injection h with h
    omega
  · decide +kernel

theorem witness_WhitespaceIsStripped :
    let s := withBuffer small [0x31, 0x32]
    let t := withBuffer small [0x0B, 0x31, 0x20, 0x32, 0x0D]
    s.cfg = t.cfg ∧ s.bufferHolds s.iolen.toNat = true ∧ t.bufferHolds t.iolen.toNat = true ∧
    withoutWhitespace s.content = withoutWhitespace t.content ∧
    (∃ ch ∈ (withBuffer small [0x31, 0xA0, 0x32]).content,
      ch ∉ whitespaceBytes ∧ ch ≠ 0x2D ∧ digitValue ch = none) := by decide +kernel

theorem witness_StsWritesTheString :
    (withInts small 1 2 3).rReg 7 = none ∧ (withInts tiny 12345 0 0).rReg 0 = some (int 12345) ∧
    (int 12345).canonical = true ∧ (withInts tiny 12345 0 0).bufferHolds (signedDigits 16 (int 12345)).length = true ∧
    (withInts tiny 12345 0 0).bufferHolds (signedDigits 10 (int 12345)).length = false ∧
    ((17 : BitVec 8) ≠ 0 ∧ (17 : BitVec 8) ≠ 10 ∧ (17 : BitVec 8) ≠ 16) := by decide +kernel

theorem witness_strings : (int (-12)).canonical = true ∧ (int 0).canonical = true := by decide +kernel

theorem witness_FormatThenParseRoundTrip :
    let s := withInts small (-2 ^ 52) 0 0
    s.rReg 0 = some (int (-2 ^ 52)) ∧ s.cfg.holds (int (-2 ^ 52)) = true ∧
    s.bufferHolds (stsText (int (-2 ^ 52)) 16).length = true ∧ (stsText (int (-2 ^ 52)) 16).length < 2 ^ 32 := by
  decide +kernel

theorem witness_IntegerValueBijection : (int (-2 ^ 60)).canonical = true := by decide +kernel

/-- The premises of the binary contracts: a result that fits, one that does not, an invalid source. -/
theorem witness_BinaryContract :
    let s := withInts tiny (2 ^ 52 - 1) 1 0
    s.rReg 0 = some (int (2 ^ 52 - 1)) ∧ s.rReg 1 = some (int 1) ∧ (int (2 ^ 52 - 1)).canonical = true ∧
    (int 1).canonical = true ∧ s.cfg.fits (int (2 ^ 52 - 1 - 1)) = true ∧ s.cfg.fits (int (2 ^ 52 - 1 + 1)) = false ∧
    s.cfg.fits (int ((2 ^ 52 - 1) * 1)) = true ∧ s.cfg.fits (int ((2 ^ 52 - 1) * (2 ^ 52 - 1))) = false ∧
    s.cfg.fits (int (2 ^ 52 - 1 - -1)) = false ∧ s.rReg 7 = none := by decide +kernel

/-- The premises of the unary contracts, for SQR and the left shifts. -/
theorem witness_UnaryContract :
    let s := withInts tiny 1 (2 ^ 26) 0
    s.rReg 0 = some (int 1) ∧ (int 1).canonical = true ∧ s.cfg.fits (int (1 * 2 ^ 51)) = true ∧
    s.cfg.fits (int (1 * 2 ^ 52)) = false ∧ s.rReg 1 = some (int (2 ^ 26)) ∧
    s.cfg.fits (int (1 * 1)) = true ∧ s.cfg.fits (int (2 ^ 26 * 2 ^ 26)) = false ∧ s.rReg 7 = none := by
  decide +kernel

/-- The premises of the contracts of NEG, MOV and the right shifts. -/
theorem witness_ShorteningContract :
    let s := withInts tiny (-(2 ^ 52 - 1)) 0 0
    s.rReg 0 = some (int (-(2 ^ 52 - 1))) ∧ (int (-(2 ^ 52 - 1))).canonical = true ∧
    s.cfg.fits (int (-(2 ^ 52 - 1))) = true ∧ s.rReg 7 = none ∧ (1 : RegIdx) ≠ 2 := by decide +kernel

theorem witness_RepeatedAddipIsExact :
    let s := withInts tiny 0 67108863 0
    (0 : RegIdx) ≠ 1 ∧ s.rReg 0 = some (int 0) ∧ s.rReg 1 = some (int 67108863) ∧ (int 0).canonical = true ∧
    (int 67108863).canonical = true ∧
    ∀ k : Nat, k ≤ 3 → s.cfg.fits (Integer.ofInt ((int 0).val + k * (int 67108863).val)) = true := by
  decide +kernel

theorem witness_LimbDatapathIsExact : magnitude [1, 0] ≤ magnitude [0, 1] := by decide +kernel

theorem witness_Division :
    let s := withInts small (2 ^ 78) (2 ^ 52 + 1) 0
    s.rReg 0 = some (int (2 ^ 78)) ∧ s.rReg 1 = some (int (2 ^ 52 + 1)) ∧ s.cfg.holds (int (2 ^ 78)) = true ∧
    s.cfg.holds (int (2 ^ 52 + 1)) = true ∧ (int (2 ^ 52 + 1)).val ≠ 0 ∧ 0 < (int (2 ^ 52 + 1)).mag ∧
    (int (2 ^ 78)).canonical = true ∧ (int (2 ^ 52 + 1)).canonical = true ∧
    (int (2 ^ 78)).mag / (int (2 ^ 52 + 1)).mag = 67108863 ∧ (2 : RegIdx) ≠ 3 := by decide +kernel

theorem witness_DivisionByZeroFaults :
    let s := withInts small 0 0 0
    s.rReg 0 = some (int 0) ∧ s.rReg 1 = some (int 0) ∧ (int 0).isZero = true := by decide +kernel

theorem witness_ModinvWritesTheInverse :
    let s := withInts small 3 257 0
    s.rReg 0 = some (int 3) ∧ s.rReg 1 = some (int 257) ∧ (int 3).canonical = true ∧
    s.cfg.holds (int 257) = true ∧ 0 < (int 257).val ∧ (int 257).val % 2 = 1 ∧ (0 : Int) ≤ 86 ∧ 86 < (int 257).val ∧
    (int 3).val * 86 % (int 257).val = 1 % (int 257).val ∧
    (withInts small 3 0 0).rReg 1 = some (int 0) ∧ s.cfg.holds (int 0) = true ∧ (int 0).val = 0 ∧
    (withInts small 5 1 0).rReg 1 = some (int 1) ∧ (int 1).val % 2 = 1 ∧
    (int 5).val * 0 % (int 1).val = 1 % (int 1).val := by decide +kernel

theorem witness_InversePostcondition :
    (0 : Int) < 17 ∧ (17 : Int) % 2 = 1 ∧ Int.gcd (-5) 17 = 1 ∧ (0 : Int) ≤ 10 ∧ (10 : Int) < 17 ∧
    (-5 * 10 : Int) % 17 = 1 % 17 ∧ Int.gcd 0 1 = 1 := by decide +kernel

theorem witness_UndefinedInputsWaitOrComplete :
    let s := withPoints curve17 (pt 1 5) (pt 1 12) 9
    s.cfg.wf = true ∧ s.pReg 0 = some (pt 1 5) ∧ s.pReg 1 = some (pt 1 12) ∧ s.curve = some curve17 ∧
    s.rReg 0 = some (int 9) ∧ 0 < (int 9).val ∧ (int 9).val ≤ curve17.n.val ∧ curve17.p.val ≠ 0 ∧
    multiplyPoint (int 9).val.toNat (pointVal (pt 1 5)) curve17.p.val = none ∧
    ¬(0 < curve17.p.val ∧ curve17.p.val % 2 = 1 ∧ Int.gcd ((pt 1 12).x.val - (pt 1 5).x.val) curve17.p.val = 1) ∧
    ¬(0 < curve17.p.val ∧ curve17.p.val % 2 = 1 ∧ Int.gcd (2 * (pt 3 0).y.val) curve17.p.val = 1) ∧
    ¬((pt 3 0).x.val = 0 ∧ (pt 3 0).y.val = 0) ∧
    (withPoints curve17 (pt 3 0) (pt 3 0) 1).pReg 0 = some (pt 3 0) ∧
    (withInts small 6 9 0).rReg 0 = some (int 6) ∧ (withInts small 6 9 0).rReg 1 = some (int 9) ∧
    (int 9).val ≠ 0 ∧ ¬(0 < (int 9).val ∧ (int 9).val % 2 = 1 ∧ Int.gcd (int 6).val (int 9).val = 1) := by
  decide +kernel

/-- PADD of a Point and itself, with a modulus above 1 and with the modulus 1. -/
theorem witness_UndefinedInputs_same_x :
    (∀ k ∈ [curve17, modulusOne], (withPoints k (pt 1 5) (pt 1 5) 0).cfg.wf = true ∧
      (withPoints k (pt 1 5) (pt 1 5) 0).pReg 0 = some (pt 1 5) ∧
      (withPoints k (pt 1 5) (pt 1 5) 0).pReg 1 = some (pt 1 5) ∧
      (withPoints k (pt 1 5) (pt 1 5) 0).curve = some k ∧ k.p.val ≠ 0) ∧
    (pt 1 5).x.val = (pt 1 5).x.val ∧
    0 < modulusOne.p.val ∧ modulusOne.p.val % 2 = 1 ∧ Int.gcd 0 modulusOne.p.val = 1 := by decide +kernel

theorem witness_PointCommandsCopy :
    (withInts tiny 5 (-9) 0).rReg 0 = some (int 5) ∧ (withInts tiny 5 (-9) 0).rReg 1 = some (int (-9)) ∧
    tiny.fits (int 5) = true ∧ tiny.fits (int (-9)) = true ∧
    (withPoints curve17 (pt 5 (-9)) (pt 1 2) 0).pReg 0 = some (pt 5 (-9)) ∧ small.fitsPoint (pt 5 (-9)) = true := by
  decide +kernel

theorem witness_PeqComparesValues :
    let s := withPoints curve17 (pt 1 2) (pt 1 (-2)) 0
    s.pReg 0 = some (pt 1 2) ∧ s.pReg 1 = some (pt 1 (-2)) ∧ (pt 1 2).x.canonical = true ∧
    (pt 1 2).y.canonical = true ∧ (pt 1 (-2)).x.canonical = true ∧ (pt 1 (-2)).y.canonical = true := by
  decide +kernel

theorem witness_PstsWritesThePoint :
    let X := pt 255 (-12)
    let s := withPoints curve17 X X 0
    let text := [0x28] ++ signedDigits 16 X.x ++ [0x2C, 0x20] ++ signedDigits 16 X.y ++ [0x29]
    s.pReg 0 = some X ∧ X.x.canonical = true ∧ X.y.canonical = true ∧ s.bufferHolds text.length = true ∧
    (State.resetWith tiny).bufferHolds text.length = false := by decide +kernel

theorem witness_CurveContextCommands :
    let s := ((withInts small 17 9 0).setP 0 (pt 1 5))
    (1 : BitVec 32) ≠ 0 ∧ s.cfg.admits 10 = true ∧ (State.resetWith tiny).cfg.admits 10 = false ∧
    s.rReg 0 = some (int 17) ∧ s.rReg 1 = some (int 9) ∧ s.pReg 0 = some (pt 1 5) ∧ s.cfg.fits (int 17) = true ∧
    s.cfg.fits (int 9) = true ∧ s.cfg.fitsPoint (pt 1 5) = true ∧ s.curve = none ∧
    (s.setCurve curve17).curve = some curve17 ∧ s.cfg.fitsPoint curve17.g = true := by decide +kernel

theorem witness_PaddWritesTheSum :
    let s := withPoints curve17 (pt 1 5) (pt 2 10) 0
    s.pReg 0 = some (pt 1 5) ∧ s.pReg 1 = some (pt 2 10) ∧ s.curve = some curve17 ∧
    s.cfg.holds curve17.p = true ∧ 0 < curve17.p.val ∧ curve17.p.val % 2 = 1 ∧
    (pt 1 5).x.val ≠ (pt 2 10).x.val ∧
    (let o := withPoints modulusOne (pt 1 5) (pt 2 10) 0
     o.pReg 0 = some (pt 1 5) ∧ o.pReg 1 = some (pt 2 10) ∧ o.curve = some modulusOne ∧
     o.cfg.holds modulusOne.p = true ∧ 0 < modulusOne.p.val ∧ modulusOne.p.val % 2 = 1 ∧
     ((pt 2 10).x.val - (pt 1 5).x.val) * 0 % modulusOne.p.val = 1 % modulusOne.p.val) ∧
    ((pt 2 10).x.val - (pt 1 5).x.val) * 1 % curve17.p.val = 1 % curve17.p.val ∧
    (let z := withPoints zeroModulus (pt 1 5) (pt 5 1) 0
     z.pReg 0 = some (pt 1 5) ∧ z.pReg 1 = some (pt 5 1) ∧ z.curve = some zeroModulus ∧
     z.cfg.holds zeroModulus.p = true ∧ zeroModulus.p.val = 0) := by decide +kernel

theorem witness_PdblWritesTheDouble :
    let s := withPoints curve17 (pt 1 5) (pt 0 0) 0
    s.pReg 0 = some (pt 1 5) ∧ s.pReg 1 = some (pt 0 0) ∧ s.curve = some curve17 ∧ s.cfg.wf = true ∧
    s.cfg.holds curve17.p = true ∧ 0 < curve17.p.val ∧ curve17.p.val % 2 = 1 ∧
    ¬((pt 1 5).x.val = 0 ∧ (pt 1 5).y.val = 0) ∧
    2 * (pt 1 5).y.val * 12 % curve17.p.val = 1 % curve17.p.val ∧ curve17.p.val ≠ 0 ∧
    (pt 0 0).x.val = 0 ∧ (pt 0 0).y.val = 0 ∧
    (let z := withPoints zeroModulus (pt 0 0) (pt 1 5) 0
     z.pReg 0 = some (pt 0 0) ∧ z.curve = some zeroModulus ∧ z.cfg.wf = true ∧
     z.cfg.holds zeroModulus.p = true ∧ zeroModulus.p.val = 0) := by
  decide +kernel

theorem witness_PmulWritesTheMultiple :
    let s := withPoints curve17 (pt 1 5) (pt 2 10) 5
    s.rReg 0 = some (int 5) ∧ s.pReg 0 = some (pt 1 5) ∧ s.curve = some curve17 ∧ 0 < (int 5).val ∧
    (int 5).val ≤ curve17.n.val ∧ 2 ≤ (int 5).val ∧ curve17.p.val ≠ 0 ∧ s.cfg.wf = true ∧
    s.cfg.holds curve17.p = true ∧
    multiplyPoint (int 5).val.toNat (pointVal (pt 1 5)) curve17.p.val = some (12, 16) := by decide +kernel

/-- The boundaries of PMUL's clauses, each in a state: `k = 0`, `k = n + 1`, `k = 1` with a modulus and with
the modulus zero, `k = 2` with the modulus zero, `k = 2` and `k = n` with a result. -/
theorem witness_PmulWritesTheMultiple_boundaries :
    let s := fun (k : CurveContext) (X : Point) (z : Int) => withPoints k X X z
    (∀ z ∈ ([0, 1, 2, 9, 10] : List Int), (s curve17 (pt 1 5) z).rReg 0 = some (int z) ∧
      (s curve17 (pt 1 5) z).pReg 0 = some (pt 1 5) ∧ (s curve17 (pt 1 5) z).curve = some curve17) ∧
    (int 0).val ≤ 0 ∧ curve17.n.val < (int 10).val ∧
    (int 1).val = 1 ∧ (int 1).val ≤ curve17.n.val ∧ (s curve17 (pt 1 5) 1).cfg.holdsPoint (pt 1 5) = true ∧
    (int 2).val ≤ curve17.n.val ∧ multiplyPoint (int 2).val.toNat (pointVal (pt 1 5)) curve17.p.val = some (2, 10) ∧
    (∀ z ∈ ([1, 2] : List Int), (s zeroModulus (pt 1 5) z).rReg 0 = some (int z) ∧
      (s zeroModulus (pt 1 5) z).pReg 0 = some (pt 1 5) ∧ (s zeroModulus (pt 1 5) z).curve = some zeroModulus ∧
      (int z).val ≤ zeroModulus.n.val) ∧ zeroModulus.p.val = 0 ∧
    (s zeroModulus (pt 1 5) 1).cfg.holdsPoint (pt 1 5) = true ∧
    (let t := s order3 (pt 1 5) 3
     t.rReg 0 = some (int 3) ∧ t.pReg 0 = some (pt 1 5) ∧ t.curve = some order3 ∧ (int 3).val = order3.n.val ∧
     t.cfg.holds order3.p = true ∧ t.cfg.wf = true ∧ order3.p.val ≠ 0 ∧
     multiplyPoint (int 3).val.toNat (pointVal (pt 1 5)) order3.p.val = some (5, 9)) := by decide +kernel

theorem witness_CurveResultsDependOnResidues :
    (0 : Int) < 17 ∧ (1 : Int) % 17 = (-16) % 17 ∧ (5 : Int) % 17 = 22 % 17 ∧ (2 : Int) % 17 = 19 % 17 ∧
    (7 : Int) % 17 = (-10) % 17 ∧ ((1, 5) : PointVal) ≠ (0, 0) ∧ ((-16, 22) : PointVal) ≠ (0, 0) ∧
    addPoints (1, 5) (2, 7) 17 = some (1, 12) ∧ addPoints (-16, 22) (19, -10) 17 = some (1, 12) ∧
    doublePoint (-16, 22) 17 = some (2, 10) ∧ (1 : Int) < 17 ∧ (1 : Int) % 1 = 3 % 1 ∧
    addPoints (1, 5) (2, 7) 1 = some (0, 0) ∧ addPoints (3, 5) (2, 7) 1 = some (0, 0) := by decide +kernel

theorem witness_AdditionCommutes : ((1, 5) : PointVal).1 = ((1, 12) : PointVal).1 := by decide

theorem witness_ResultsStayOnTheCurve :
    (5 * 5 : Int) % 17 = (1 * 1 * 1 + 7) % 17 ∧ (10 * 10 : Int) % 17 = (2 * 2 * 2 + 7) % 17 ∧
    addPoints (1, 5) (2, 10) 17 = some (5, 9) ∧ doublePoint (1, 5) 17 = some (2, 10) ∧
    multiplyPoint 7 (1, 5) 17 = some (2, 7) := by decide +kernel

end Sys2Proof.Tests
end

section
/-! The value of an Integer (00_scope.md R10): limbs as base-2^26 digits, the canonical form in two cases,
and `val` and `int` as inverse bijections. -/

namespace Sys2Proof

/-! ### The size of `int(z)` -/

theorem bitLength_eq_size (n : Nat) : bitLength n = Nat.size n := by
  unfold bitLength
  split
  next hn => simp [hn]
  next hn =>
    refine eq_of_forall_ge_iff fun k => ?_
    rw [Nat.add_one_le_iff, Nat.log2_lt hn, Nat.size_le]

theorem limbCount_eq_size (n : Nat) : limbCount n = max 1 ((Nat.size n + 25) / 26) := by
  rw [limbCount, bitLength_eq_size]

/-- The limb count of a non-zero magnitude is the number of its base-2^26 digits. -/
theorem limbCount_eq_length_digits {n : Nat} (hn : n ≠ 0) :
    limbCount n = (Nat.digits (2 ^ 26) n).length := by
  refine eq_of_forall_ge_iff fun k => ?_
  have hsize : 0 < Nat.size n := Nat.size_pos.mpr (Nat.pos_of_ne_zero hn)
  calc limbCount n ≤ k
    _ ↔ Nat.size n ≤ 26 * k := by rw [limbCount_eq_size]; omega
    _ ↔ n < (2 ^ 26) ^ k := by rw [Nat.size_le, pow_mul]
    _ ↔ (Nat.digits (2 ^ 26) n).length ≤ k := (Nat.digits_length_le_iff (by norm_num) n).symm

/-! ### Limbs as digits -/

@[simp] theorem length_limbsOf (k n : Nat) : (limbsOf k n).length = k := by
  induction k generalizing n with
  | zero => rfl
  | succ k ih => simp [limbsOf, ih]

theorem map_toNat_limbsOf {k n : Nat} (hk : (Nat.digits (2 ^ 26) n).length = k) :
    (limbsOf k n).map BitVec.toNat = Nat.digits (2 ^ 26) n := by
  induction k generalizing n with
  | zero => rw [List.length_eq_zero_iff.mp hk]; rfl
  | succ k ih =>
    have hn : n ≠ 0 := by rintro rfl; simp at hk
    rw [Nat.digits_eq_cons_digits_div (by norm_num) hn] at hk ⊢
    rw [limbsOf, List.map_cons, BitVec.toNat_ofNat, ih (by simpa using hk)]

theorem magnitude_eq_ofDigits (ls : List Limb) :
    magnitude ls = Nat.ofDigits (2 ^ 26) (ls.map BitVec.toNat) := by
  induction ls with
  | nil => rfl
  | cons l ls ih => simp [magnitude, Nat.ofDigits_cons, ih]

theorem magnitude_eq_sum (ls : List Limb) :
    magnitude ls = ∑ i ∈ Finset.range ls.length, (ls.getD i 0).toNat * 2 ^ (26 * i) := by
  induction ls with
  | nil => rfl
  | cons l ls ih =>
    have hshift : ∀ i, (ls.getD i 0).toNat * 2 ^ (26 * (i + 1)) =
        2 ^ 26 * ((ls.getD i 0).toNat * 2 ^ (26 * i)) := fun i => by ring
    simp only [magnitude, ih, List.length_cons, Finset.sum_range_succ', List.getD_cons_succ,
      List.getD_cons_zero, hshift, Finset.mul_sum]
    ring

/-- The top digit of a limb sequence is its top limb. -/
theorem getLast_map_toNat (ls : List Limb) (hne : ls.map BitVec.toNat ≠ []) :
    (ls.map BitVec.toNat).getLast hne = (ls.getLastD 0).toNat := by
  have hls : ls ≠ [] := by simpa using hne
  rw [List.getLast_map, List.getLastD_eq_getLast?, List.getLast?_eq_some_getLast hls, Option.getD_some]

/-- Limbs with a non-zero top limb are the base-2^26 digits of their magnitude. -/
theorem digits_magnitude {ls : List Limb} (htop : ls.getLastD 0 ≠ 0) :
    Nat.digits (2 ^ 26) (magnitude ls) = ls.map BitVec.toNat := by
  rw [magnitude_eq_ofDigits]
  refine Nat.digits_ofDigits _ (by norm_num) _ (fun d hd => ?_) fun hne => ?_
  · obtain ⟨l, -, rfl⟩ := List.mem_map.mp hd
    exact l.isLt
  · rw [getLast_map_toNat]
    simpa [← BitVec.toNat_inj] using htop

theorem magnitude_ne_zero {ls : List Limb} (htop : ls.getLastD 0 ≠ 0) : magnitude ls ≠ 0 := by
  intro hzero
  have hnil : ls = [] := by simpa [hzero] using digits_magnitude htop
  simp [hnil] at htop

/-! ### Canonical Integers and their values -/

/-- R23 in two cases: the Integer zero, or a non-zero top limb under any sign. -/
theorem Integer.canonical_iff (A : Integer) :
    A.canonical = true ↔ A = { sign := false, limbs := [0] } ∨ A.limbs.getLastD 0 ≠ 0 := by
  obtain ⟨sign, limbs⟩ := A
  match limbs with
  | [] => simp [Integer.canonical]
  | [l] => by_cases hl : l = 0#26 <;> simp [Integer.canonical, Integer.length, hl]
  | l :: m :: ls => simp [Integer.canonical, Integer.length]

@[simp] theorem Integer.natAbs_val (A : Integer) : A.val.natAbs = A.mag := by
  unfold Integer.val
  split <;> simp

theorem Integer.val_neg_iff {A : Integer} (hmag : A.mag ≠ 0) : A.val < 0 ↔ A.sign = true := by
  unfold Integer.val
  split
  next hsign => simp [hsign]; omega
  next hsign => simp [hsign]

theorem Integer.ofInt_zero : Integer.ofInt 0 = { sign := false, limbs := [0] } := by decide

@[simp] theorem Integer.length_ofInt (z : Int) : (Integer.ofInt z).length = limbCount z.natAbs :=
  length_limbsOf _ _

theorem Integer.map_toNat_limbs_ofInt {z : Int} (hz : z ≠ 0) :
    (Integer.ofInt z).limbs.map BitVec.toNat = Nat.digits (2 ^ 26) z.natAbs :=
  map_toNat_limbsOf (limbCount_eq_length_digits (Int.natAbs_ne_zero.mpr hz)).symm

@[simp] theorem Integer.mag_ofInt (z : Int) : (Integer.ofInt z).mag = z.natAbs := by
  by_cases hz : z = 0
  · subst hz; decide
  · rw [Integer.mag, magnitude_eq_ofDigits, Integer.map_toNat_limbs_ofInt hz, Nat.ofDigits_digits]

@[simp] theorem Integer.val_ofInt (z : Int) : (Integer.ofInt z).val = z := by
  have hsign : (Integer.ofInt z).sign = decide (z < 0) := rfl
  rw [Integer.val, Integer.mag_ofInt, hsign]
  by_cases hz : z < 0
  · rw [decide_eq_true hz, if_pos rfl]; omega
  · rw [decide_eq_false hz, if_neg Bool.false_ne_true]; omega

@[simp] theorem Integer.canonical_ofInt (z : Int) : (Integer.ofInt z).canonical = true := by
  rw [Integer.canonical_iff]
  by_cases hz : z = 0
  · exact .inl (hz ▸ Integer.ofInt_zero)
  · right
    have htop := Nat.getLast_digit_ne_zero (2 ^ 26) (Int.natAbs_ne_zero.mpr hz)
    simp only [← Integer.map_toNat_limbs_ofInt hz, getLast_map_toNat] at htop
    simpa [← BitVec.toNat_inj] using htop

/-- A canonical Integer is the one `int` gives for its value. -/
theorem Integer.ofInt_val {A : Integer} (hA : A.canonical = true) : Integer.ofInt A.val = A := by
  obtain rfl | htop := A.canonical_iff.mp hA
  · decide
  · have hmag : A.mag ≠ 0 := magnitude_ne_zero htop
    have hval : A.val ≠ 0 := by simpa [← Int.natAbs_ne_zero] using hmag
    have hsign : (Integer.ofInt A.val).sign = A.sign := by
      rw [Integer.ofInt, Bool.eq_iff_iff, decide_eq_true_iff, Integer.val_neg_iff hmag]
    have hlimbs : (Integer.ofInt A.val).limbs = A.limbs := by
      refine List.map_injective_iff.mpr (fun _ _ => BitVec.eq_of_toNat_eq) ?_
      rw [Integer.map_toNat_limbs_ofInt hval, Integer.natAbs_val]
      exact digits_magnitude htop
    exact congrArg₂ Integer.mk hsign hlimbs

/-- Settles O32: by the base-2^26 digits of the magnitude, zero apart. -/
theorem integerValueBijection : Obligations.IntegerValueBijection := by
  unfold Obligations.IntegerValueBijection
  exact ⟨fun A => magnitude_eq_sum A.limbs, fun _ => rfl,
    fun z => ⟨Integer.canonical_ofInt z, Integer.val_ofInt z⟩,
    fun _ => Integer.ofInt_val,
    fun z => ⟨rfl, (Integer.length_ofInt z).trans (limbCount_eq_size _), Integer.map_toNat_limbs_ofInt⟩,
    Integer.ofInt_zero⟩

end Sys2Proof
end

section
/-! The limb algorithms of 10_state.md R24 and 41_arithmetic.md R111, R112, R114 on magnitudes. -/

namespace Sys2Proof

/-! ### Magnitudes -/

@[simp] theorem magnitude_nil : magnitude [] = 0 := rfl

@[simp] theorem magnitude_cons (l : Limb) (ls : List Limb) :
    magnitude (l :: ls) = l.toNat + 2 ^ 26 * magnitude ls := rfl

/-- A sequence seen as its low limb and the rest; missing limbs count as 0. -/
theorem magnitude_eq_headD_add_tail (ls : List Limb) :
    magnitude ls = (ls.headD 0).toNat + 2 ^ 26 * magnitude ls.tail := by
  cases ls <;> simp

theorem magnitude_lt (ls : List Limb) : magnitude ls < 2 ^ (26 * ls.length) := by
  rw [magnitude_eq_ofDigits, pow_mul]
  have hdigit : ∀ d ∈ ls.map BitVec.toNat, d < 2 ^ 26 := by
    simpa using fun l _ => l.isLt
  simpa using Nat.ofDigits_lt_base_pow_length (by norm_num) hdigit

/-! ### Normalisation -/

@[simp] theorem magnitude_trimLimbs (ls : List Limb) : magnitude (trimLimbs ls) = magnitude ls := by
  induction ls with
  | nil => rfl
  | cons l ls ih =>
    rw [trimLimbs]
    split
    next htail =>
      rw [htail, magnitude_nil] at ih
      split
      next hl => simp [← ih, hl]
      next => simp [← ih]
    next t ts htail => rw [magnitude_cons, ← htail, ih, magnitude_cons]

/-- What is left after trimming is nothing, or ends in a non-zero limb. -/
theorem trimLimbs_eq_nil_or_top (ls : List Limb) : trimLimbs ls = [] ∨ (trimLimbs ls).getLastD 0 ≠ 0 := by
  induction ls with
  | nil => exact .inl rfl
  | cons l ls ih =>
    rw [trimLimbs]
    split
    next =>
      split
      next => exact .inl rfl
      next hl => exact .inr hl
    next t ts htail =>
      rw [htail] at ih
      simpa using ih

/-- R24 in two cases: a zero magnitude gives the Integer zero, another keeps its sign and its limbs up to a
non-zero top limb. -/
theorem normalize_cases (sign : Bool) (ls : List Limb) :
    (magnitude ls = 0 ∧ normalize sign ls = { sign := false, limbs := [0] }) ∨
    (magnitude ls ≠ 0 ∧ (trimLimbs ls).getLastD 0 ≠ 0 ∧
      normalize sign ls = { sign := sign, limbs := trimLimbs ls }) := by
  have hmag := magnitude_trimLimbs ls
  obtain hnil | htop := trimLimbs_eq_nil_or_top ls
  · left
    rw [normalize, hnil]
    exact ⟨by simpa [hnil] using hmag.symm, rfl⟩
  · right
    refine ⟨hmag ▸ magnitude_ne_zero htop, htop, ?_⟩
    unfold normalize
    split
    next hnil => simp [hnil] at htop
    next hcons => rw [hcons]

@[simp] theorem canonical_normalize (sign : Bool) (ls : List Limb) : (normalize sign ls).canonical = true := by
  rw [Integer.canonical_iff]
  obtain ⟨-, hzero⟩ | ⟨-, htop, hnz⟩ := normalize_cases sign ls
  · exact .inl hzero
  · exact .inr (hnz ▸ htop)

@[simp] theorem mag_normalize (sign : Bool) (ls : List Limb) : (normalize sign ls).mag = magnitude ls := by
  obtain ⟨hmag, hzero⟩ | ⟨-, -, hnz⟩ := normalize_cases sign ls
  · rw [hzero, hmag]; rfl
  · rw [hnz]; exact magnitude_trimLimbs ls

theorem sign_normalize (sign : Bool) (ls : List Limb) :
    (normalize sign ls).sign = (sign && decide (magnitude ls ≠ 0)) := by
  obtain ⟨hmag, hzero⟩ | ⟨hmag, -, hnz⟩ := normalize_cases sign ls
  · simp [hzero, hmag]
  · simp [hnz, hmag]

/-! ### Addition and subtraction -/

/-- The carry of R111 never exceeds 1, so the limb that receives the last one holds it. -/
theorem magnitude_addCarry {as bs : List Limb} {carry : Nat} (hlen : bs.length ≤ as.length)
    (hcarry : carry ≤ 1) : magnitude (addCarry as bs carry) = magnitude as + magnitude bs + carry := by
  induction as generalizing bs carry with
  | nil =>
    obtain rfl : bs = [] := by simpa using hlen
    obtain rfl | rfl : carry = 0 ∨ carry = 1 := by omega
    all_goals rfl
  | cons a as ih =>
    have ha := a.isLt
    have hb := (bs.headD 0).isLt
    have htail := ih (bs := bs.tail) (carry := (a.toNat + (bs.headD 0).toNat + carry) / 2 ^ 26)
      (by simp only [List.length_tail, List.length_cons] at hlen ⊢; omega) (by omega)
    rw [addCarry, magnitude_cons, magnitude_cons, htail, BitVec.toNat_ofNat, magnitude_eq_headD_add_tail bs]
    omega

theorem magnitude_addMag (A B : List Limb) : magnitude (addMag A B) = magnitude A + magnitude B := by
  unfold addMag
  split
  next hlt => rw [magnitude_addCarry hlt.le (by omega)]; omega
  next hge => rw [magnitude_addCarry (by omega) (by omega)]; omega

theorem magnitude_subBorrow {as bs : List Limb} {borrow : Nat} (hborrow : borrow ≤ 1)
    (hle : magnitude bs + borrow ≤ magnitude as) :
    magnitude (subBorrow as bs borrow) = magnitude as - (magnitude bs + borrow) := by
  induction as generalizing bs borrow with
  | nil => simp [subBorrow]
  | cons a as ih =>
    have ha := a.isLt
    have hb := (bs.headD 0).isLt
    rw [magnitude_cons, magnitude_eq_headD_add_tail bs] at hle ⊢
    rw [subBorrow]
    split
    next hlt => rw [magnitude_cons, BitVec.toNat_ofNat, ih (by omega) (by omega)]; omega
    next hge => rw [magnitude_cons, BitVec.toNat_ofNat, ih (by omega) (by omega)]; omega

theorem magnitude_subMag {A B : List Limb} (h : magnitude B ≤ magnitude A) :
    magnitude (subMag A B) = magnitude A - magnitude B := by
  rw [subMag, magnitude_subBorrow (by omega) (by omega), Nat.add_zero]

/-! ### Multiplication -/

/-- Column `k` of the schoolbook product (R114), its partial products added up. -/
def columnSum (A B : List Limb) (k : Nat) : Nat := (columnProducts A B k).sum

@[simp] theorem columnSum_nil (B : List Limb) (k : Nat) : columnSum [] B k = 0 := rfl

/-- The low limb of `A` meets limb `0` of `B` in column `0`, and no other limb of `A` does. -/
theorem columnSum_cons_zero (a : Limb) (A B : List Limb) :
    columnSum (a :: A) B 0 = a.toNat * (B.getD 0 0).toNat := by
  cases B <;> simp [columnSum, columnProducts, List.range_succ_eq_map, List.filterMap_map]

/-- Column `k + 1` is the low limb of `A` with limb `k + 1` of `B`, and column `k` of the other limbs. -/
theorem columnSum_cons_succ (a : Limb) (A B : List Limb) (k : Nat) :
    columnSum (a :: A) B (k + 1) = a.toNat * (B.getD (k + 1) 0).toNat + columnSum A B k := by
  by_cases hk : k + 1 < B.length <;>
  simp [columnSum, columnProducts, List.range_succ_eq_map, List.filterMap_map, hk]

/-- Columns enough for every limb of `B` give its magnitude. -/
theorem sum_getD_eq_magnitude {B : List Limb} {n : Nat} (hn : B.length ≤ n) :
    ∑ k ∈ Finset.range n, (B.getD k 0).toNat * 2 ^ (26 * k) = magnitude B := by
  rw [magnitude_eq_sum]
  symm
  refine Finset.sum_subset (by simpa using hn) fun k _ hk => ?_
  rw [List.getD_eq_default _ _ (by simpa using hk)]
  simp

/-- Columns enough for every pair of limbs give the product of the magnitudes. -/
theorem sum_columnSum_eq_mul {A B : List Limb} {n : Nat} (hn : A.length + B.length - 1 ≤ n) :
    ∑ k ∈ Finset.range n, columnSum A B k * 2 ^ (26 * k) = magnitude A * magnitude B := by
  induction A generalizing n with
  | nil => simp
  | cons a A ih =>
    simp only [List.length_cons] at hn
    cases n with
    | zero =>
      obtain rfl : B = [] := List.length_eq_zero_iff.mp (by omega)
      simp
    | succ n =>
      have hB := sum_getD_eq_magnitude (B := B) (n := n + 1) (by omega)
      rw [Finset.sum_range_succ'] at hB ⊢
      have hshift : ∀ k, columnSum A B k * 2 ^ (26 * (k + 1)) =
          2 ^ 26 * (columnSum A B k * 2 ^ (26 * k)) := fun k => by ring
      simp only [columnSum_cons_zero, columnSum_cons_succ, add_mul, Finset.sum_add_distrib, hshift,
        ← Finset.mul_sum, mul_assoc a.toNat, ih (n := n) (by omega), magnitude_cons]
      rw [← hB]
      ring

/-- Low and high parts of some numbers, added up apart. -/
theorem sum_map_mod_add_div (ps : List Nat) (m : Nat) :
    (ps.map (· % m)).sum + m * (ps.map (· / m)).sum = ps.sum := by
  induction ps with
  | nil => rfl
  | cons p ps ih =>
    have hp := Nat.mod_add_div p m
    simp only [List.map_cons, List.sum_cons, Nat.mul_add]
    omega

/-- A sum in base 2^26 as its lowest term and the rest. -/
theorem sum_base_succ (f : Nat → Nat) (k n : Nat) :
    ∑ j ∈ Finset.range (n + 1), f (k + j) * 2 ^ (26 * j) =
      f k + 2 ^ 26 * ∑ j ∈ Finset.range n, f (k + 1 + j) * 2 ^ (26 * j) := by
  have hshift : ∀ j, f (k + (j + 1)) * 2 ^ (26 * (j + 1)) = 2 ^ 26 * (f (k + 1 + j) * 2 ^ (26 * j)) :=
    fun j => by rw [← Nat.add_assoc, Nat.add_right_comm k j 1, Nat.mul_succ, pow_add]; ring
  simp only [Finset.sum_range_succ', hshift, ← Finset.mul_sum, Nat.add_zero, Nat.mul_zero, pow_zero,
    Nat.mul_one, Nat.add_comm]

/-- One digit kept and its carry handed up, modulo what the digits above hold. -/
theorem mod_add_mul_carry (m M lo hi rest : Nat) (hm : 0 < m) :
    lo % m + m * ((hi + lo / m + rest) % M) = (lo + m * (hi + rest)) % (m * M) := by
  rw [Nat.mod_mul, Nat.add_mul_mod_self_left, Nat.add_mul_div_left _ _ hm, Nat.add_right_comm,
    Nat.add_comm (hi + rest)]

/-- The columns from `k` on with the carry that enters them, modulo what their limbs hold. -/
theorem magnitude_mulColumns (A B : List Limb) (n k carry : Nat) :
    magnitude (mulColumns A B n k carry) =
      (carry + ∑ j ∈ Finset.range n, columnSum A B (k + j) * 2 ^ (26 * j)) % 2 ^ (26 * (n + 1)) := by
  induction n generalizing k carry with
  | zero => simp [mulColumns]
  | succ n ih =>
    have hcolumn := sum_map_mod_add_div (columnProducts A B k) (2 ^ 26)
    have htotal : ∀ lo hi rest, lo + 2 ^ 26 * hi = columnSum A B k →
        carry + lo + 2 ^ 26 * (hi + rest) = carry + (columnSum A B k + 2 ^ 26 * rest) := by omega
    rw [mulColumns, magnitude_cons, BitVec.toNat_ofNat, ih, mod_add_mul_carry _ _ _ _ _ (by norm_num),
      sum_base_succ, htotal _ _ _ hcolumn, ← pow_add, Nat.mul_succ 26 (n + 1), Nat.add_comm 26]

/-- The columns of R114 lose nothing: the product fits the limbs they give. -/
theorem magnitude_mulMag (A B : List Limb) : magnitude (mulMag A B) = magnitude A * magnitude B := by
  have hcolumns := sum_columnSum_eq_mul (A := A) (B := B) le_rfl
  simp only [mulMag, magnitude_mulColumns, Nat.zero_add, hcolumns]
  refine Nat.mod_eq_of_lt ?_
  calc magnitude A * magnitude B
    _ < 2 ^ (26 * A.length) * 2 ^ (26 * B.length) :=
      Nat.mul_lt_mul'' (magnitude_lt A) (magnitude_lt B)
    _ = 2 ^ (26 * (A.length + B.length)) := by rw [← pow_add, Nat.mul_add]
    _ ≤ 2 ^ (26 * (A.length + B.length - 1 + 1)) := Nat.pow_le_pow_right (by norm_num) (by omega)

/-- Settles O41: the carry and borrow loops by induction on the first operand's limbs, the product by
adding up its columns. -/
theorem limbDatapathIsExact : Obligations.LimbDatapathIsExact := by
  unfold Obligations.LimbDatapathIsExact
  exact ⟨magnitude_addMag, fun _ _ => magnitude_subMag, magnitude_mulMag, fun sign ls =>
    ⟨canonical_normalize sign ls, mag_normalize sign ls, sign_normalize sign ls⟩⟩

end Sys2Proof
end

section
/-! Every result a command computes is canonical (10_state.md R24), and a free value fits its register
(60_exceptions.md R250). -/

namespace Sys2Proof

/-! ### The Integer operations -/

theorem Integer.canonical_add (A B : Integer) : (A.add B).canonical = true := by
  unfold Integer.add
  split
  next => exact canonical_normalize _ _
  next => split <;> simp

theorem Integer.canonical_neg (A : Integer) : A.neg.canonical = true := canonical_normalize _ _

theorem Integer.canonical_sub (A B : Integer) : (A.sub B).canonical = true := by
  unfold Integer.sub
  split
  next => exact Integer.canonical_add _ _
  next => split <;> exact canonical_normalize _ _

theorem Integer.canonical_mul (A B : Integer) : (A.mul B).canonical = true := canonical_normalize _ _

theorem Integer.canonical_square (A : Integer) : A.square.canonical = true := canonical_normalize _ _

theorem Integer.canonical_shl (A : Integer) (n : Nat) : (A.shl n).canonical = true := by
  unfold Integer.shl
  split <;> simp

theorem Integer.canonical_shr (A : Integer) (n : Nat) : (A.shr n).canonical = true := canonical_normalize _ _

theorem Integer.canonical_shiftedOut (A : Integer) (n : Nat) : (A.shiftedOut n).canonical = true :=
  canonical_normalize _ _

/-! ### Division -/

theorem canonical_longDivLoop (B : Integer) (fuel : Nat) {R Q : Integer} (hR : R.canonical = true)
    (hQ : Q.canonical = true) :
    (longDivLoop B fuel R Q).1.canonical = true ∧ (longDivLoop B fuel R Q).2.canonical = true := by
  induction fuel generalizing R Q with
  | zero => exact ⟨hQ, hR⟩
  | succ fuel ih =>
    rw [longDivLoop]
    split
    next => exact ⟨hQ, hR⟩
    next => exact ih (canonical_normalize _ _) (canonical_normalize _ _)

theorem canonical_divmodMag (A B : Integer) :
    (divmodMag A B).1.canonical = true ∧ (divmodMag A B).2.canonical = true := by
  unfold divmodMag
  split
  next => exact ⟨Integer.canonical_ofInt _, Integer.canonical_ofInt _⟩
  next =>
    split
    next => exact ⟨canonical_normalize _ _, Integer.canonical_ofInt _⟩
    next => exact canonical_longDivLoop _ _ (Integer.canonical_ofInt _) (Integer.canonical_ofInt _)

theorem canonical_divrem (A B : Integer) :
    (divrem A B).1.canonical = true ∧ (divrem A B).2.canonical = true := by
  have hmag := canonical_divmodMag A.abs B.abs
  simp only [divrem]
  split
  next => exact hmag
  next =>
    split
    next => exact ⟨Integer.canonical_neg _, hmag.2⟩
    next => split <;> exact ⟨Integer.canonical_neg _, Integer.canonical_ofInt _⟩

/-! ### Free values -/

/-- A magnitude below 2^(26 m) has at most `m` limbs. -/
theorem limbCount_le {n m : Nat} (hm : 1 ≤ m) (hn : n < 2 ^ (26 * m)) : limbCount n ≤ m := by
  rw [← Nat.size_le] at hn
  rw [limbCount_eq_size]
  omega

theorem Config.natAbs_cutToCapacity_lt {c : Config} {m : Nat} (hc : c.maxLimbs = some m) (z : Int) :
    (c.cutToCapacity z).natAbs < 2 ^ (26 * m) := by
  have hlt := Nat.mod_lt z.natAbs (Nat.two_pow_pos (26 * m))
  simp only [Config.cutToCapacity, hc]
  split <;> simpa only [Int.natAbs_neg, Int.natAbs_natCast] using hlt

/-- With legal parameters a free value fits (60_exceptions.md R250). -/
theorem Config.holds_ofInt_cutToCapacity {c : Config} (hc : c.wf = true) (z : Int) :
    c.holds (Integer.ofInt (c.cutToCapacity z)) = true := by
  simp only [Config.holds, Integer.canonical_ofInt, Bool.true_and, Config.fits, Config.admits]
  split
  next => rfl
  next m hm =>
    have hm2 : 2 ≤ m := by
      simp only [Config.wf, hm, Option.all_some, Bool.and_eq_true, decide_eq_true_eq] at hc
      exact hc.1
    have hlen := limbCount_le (by omega) (Config.natAbs_cutToCapacity_lt hm z)
    simpa using hlen

end Sys2Proof
end

section
/-! What a command does, once for all of them: it raises a fault, stays busy, or completes with one effect
on its destinations, and two states that agree on what it reads get the same one (10_state.md R39). -/

namespace Sys2Proof.Machine

/-! ### Effects -/

/-- The effects a command can complete with. `drawn` counts the free values used up (log 5). -/
inductive Effect where
  | writeR (d : RegIdx) (A : Integer) (drawn : Nat)
  | writeTwoR (d c : RegIdx) (A B : Integer)
  | writeP (d : RegIdx) (A : Point) (drawn : Nat)
  | writeCurve (k : CurveContext)
  | writeEq (b : Bool)
  | writeText (text : List Byte)

/-- The state with the effect's values in place. -/
def Effect.apply (s : State) : Effect → State
  | .writeR d A drawn => { s.setR d A with draws := s.draws + drawn }
  | .writeTwoR d c A B => (s.setR d A).setR c B
  | .writeP d A drawn => { s.setP d A with draws := s.draws + drawn }
  | .writeCurve k => s.setCurve k
  | .writeEq b => s.setEq b
  | .writeText text => s.withText text

/-- One row of the table of 10_state.md R39, its written columns. -/
structure Destinations where
  r : List RegIdx := []
  p : List RegIdx := []
  curve : Bool := false
  eq : Bool := false
  buffer : Bool := false

/-- What R39 lists as written by a command. -/
def destinationsOf (i : Instr) : Destinations where
  r := i.writesR
  p := i.writesP
  curve := i.writesCurve
  eq := i.writesEq
  buffer := i.writesBuffer

/-- What an effect writes. -/
def Effect.destinations : Effect → Destinations
  | .writeR d _ _ => { r := [d] }
  | .writeTwoR d c _ _ => { r := [d, c] }
  | .writeP d _ _ => { p := [d] }
  | .writeCurve _ => { curve := true }
  | .writeEq _ => { eq := true }
  | .writeText _ => { buffer := true }

/-- What an effect writes is what the invariant asks of a stored value. -/
def Effect.Held (s : State) : Effect → Prop
  | .writeR _ A _ => s.cfg.holds A = true
  | .writeTwoR _ _ A B => s.cfg.holds A = true ∧ s.cfg.holds B = true
  | .writeP _ A _ => s.cfg.holdsPoint A = true
  | .writeCurve k => (s.cfg.holds k.p && s.cfg.holds k.n && s.cfg.holdsPoint k.g) = true
  | .writeEq _ => True
  | .writeText text => s.bufferHolds text.length = true

/-- The text a storing command puts into the buffer (44_format.md R181, 45_point.md R196). -/
def textOf (s : State) : Instr → Option (List Byte)
  | .sts a m => (s.rReg a).map (stsText · m)
  | .psts a => (s.pReg a).map pointText
  | _ => none

/-- The effect is one that the command can have on the state. -/
structure Effect.Of (e : Effect) (i : Instr) (s : State) : Prop where
  destinations : destinationsOf i = e.destinations
  held : s.Inv → e.Held s
  text : ∀ text, e = .writeText text → textOf s i = some text

/-- Two runs of a command, from `s` and from `t`, that end alike: the same fault, both stuck, or the same
effect. Neither stops the model. -/
inductive SameEnd (i : Instr) (s t : State) : Except Stop State → Except Stop State → Prop
  | trap (c : FaultCode) : SameEnd i s t (.error (.trap c)) (.error (.trap c))
  | stuck : SameEnd i s t (.error .stuck) (.error .stuck)
  | done (e : Effect) (he : e.Of i s) : SameEnd i s t (.ok (e.apply s)) (.ok (e.apply t))

/-! ### What the invariant says of one register -/

theorem State.Inv.holds_of_rReg {s : State} (hs : s.Inv) {j : RegIdx} {A : Integer} (hA : s.rReg j = some A) :
    s.cfg.holds A = true := by
  simpa [hA] using hs.rHeld j

theorem State.Inv.canonical_of_rReg {s : State} (hs : s.Inv) {j : RegIdx} {A : Integer}
    (hA : s.rReg j = some A) : A.canonical = true := by
  have := hs.holds_of_rReg hA
  simp only [Config.holds, Bool.and_eq_true] at this
  exact this.1

theorem State.Inv.canonical_of_pReg {s : State} (hs : s.Inv) {j : RegIdx} {A : Point}
    (hA : s.pReg j = some A) : A.x.canonical = true ∧ A.y.canonical = true := by
  have := hs.pHeld j
  simp only [hA, Option.all_some, Config.holdsPoint, Config.holds, Bool.and_eq_true] at this
  exact ⟨this.1.1, this.2.1⟩

theorem State.Inv.canonical_of_curve {s : State} (hs : s.Inv) {k : CurveContext} (hk : s.curve = some k) :
    k.g.x.canonical = true ∧ k.g.y.canonical = true := by
  have := hs.curveHeld
  simp only [hk, Option.all_some, Config.holdsPoint, Config.holds, Bool.and_eq_true] at this
  exact ⟨this.2.1.1, this.2.2.1⟩

/-! ### Sources: agreeing states read alike, and no read stops the model -/

section
variable {i : Instr} {s t : State} {α : Type}

/-- The rule behind the others: a computation both runs share hands its value to both. -/
theorem SameEnd.bind {m m' : Except Stop α} {f g : α → Except Stop State} (hm : m = m')
    (hhalt : ∀ e, m ≠ .error (.halt e)) (hfg : ∀ a, m = .ok a → SameEnd i s t (f a) (g a)) :
    SameEnd i s t (m >>= f) (m' >>= g) := by
  subst hm
  match m with
  | .ok a => exact hfg a rfl
  | .error (.trap c) => exact .trap c
  | .error .stuck => exact .stuck
  | .error (.halt e) => exact absurd rfl (hhalt e)

theorem SameEnd.bind_readR (h : ReadsAgree i s t) {j : RegIdx} {f g : Integer → Except Stop State}
    (hfg : ∀ A, s.rReg j = some A → SameEnd i s t (f A) (g A)) (hj : j ∈ i.readsR := by simp [Instr.readsR]) :
    SameEnd i s t (s.readR j >>= f) (t.readR j >>= g) := by
  refine .bind (by rw [State.readR, State.readR, h.r j hj]) (fun e => ?_)
    fun A hA => hfg A ((s.readR_eq_ok j A).mp hA)
  unfold State.readR
  split <;> simp

theorem SameEnd.bind_readP (h : ReadsAgree i s t) {j : RegIdx} {f g : Point → Except Stop State}
    (hfg : ∀ A, s.pReg j = some A → SameEnd i s t (f A) (g A)) (hj : j ∈ i.readsP := by simp [Instr.readsP]) :
    SameEnd i s t (s.readP j >>= f) (t.readP j >>= g) := by
  refine .bind (by rw [State.readP, State.readP, h.p j hj]) (fun e => ?_)
    fun A hA => hfg A ((s.readP_eq_ok j A).mp hA)
  unfold State.readP
  split <;> simp

theorem SameEnd.bind_readCurve (h : ReadsAgree i s t) (hi : i.readsCurve = true)
    {f g : CurveContext → Except Stop State} (hfg : ∀ k, s.curve = some k → SameEnd i s t (f k) (g k)) :
    SameEnd i s t (s.readCurve >>= f) (t.readCurve >>= g) := by
  refine .bind (by rw [State.readCurve, State.readCurve, h.curve hi]) (fun e => ?_)
    fun k hk => hfg k ((s.readCurve_eq_ok k).mp hk)
  unfold State.readCurve
  split <;> simp

theorem SameEnd.bind_loadContent (h : ReadsAgree i s t) (hi : i.readsBuffer = true)
    {f g : List Byte → Except Stop State} (hfg : ∀ text, SameEnd i s t (f text) (g text)) :
    SameEnd i s t (s.loadContent >>= f) (t.loadContent >>= g) := by
  have hcontent : (List.range s.iolen.toNat).map s.readByte = (List.range s.iolen.toNat).map t.readByte :=
    List.map_congr_left fun k hk => h.iobuf hi k (List.mem_range.mp hk)
  refine .bind ?_ (fun e => ?_) fun text _ => hfg text
  · simp only [State.loadContent_eq, State.bufferHolds, h.cfg, ← h.iolen hi, hcontent]
  · rw [State.loadContent_eq]
    split <;> simp

theorem SameEnd.bind_destinationsDiffer {d c : RegIdx} {f g : Unit → Except Stop State}
    (hfg : SameEnd i s t (f ()) (g ())) :
    SameEnd i s t (destinationsDiffer d c >>= f) (destinationsDiffer d c >>= g) := by
  refine .bind rfl (fun e => ?_) fun _ _ => hfg
  unfold destinationsDiffer
  split <;> simp

theorem SameEnd.bind_parseBase {m : BitVec 8} {f g : Nat → Except Stop State}
    (hfg : ∀ base, SameEnd i s t (f base) (g base)) :
    SameEnd i s t (parseBase m >>= f) (parseBase m >>= g) := by
  refine .bind rfl (fun e => ?_) fun base _ => hfg base
  unfold parseBase
  split
  next => simp
  next => split <;> simp

/-- The base STS goes on with is the one the field names. -/
theorem SameEnd.bind_formatBase {m : BitVec 8} {f g : Nat → Except Stop State}
    (hfg : SameEnd i s t (f (numberBase m)) (g (numberBase m))) :
    SameEnd i s t (formatBase m >>= f) (formatBase m >>= g) := by
  unfold formatBase
  split
  next => exact hfg
  next => exact .trap _

theorem SameEnd.bind_divisionResult (h : ReadsAgree i s t) {a b : RegIdx}
    {f g : Integer × Integer → Except Stop State}
    (hfg : ∀ A B, SameEnd i s t (f (divrem A B)) (g (divrem A B)))
    (ha : a ∈ i.readsR := by simp [Instr.readsR]) (hb : b ∈ i.readsR := by simp [Instr.readsR]) :
    SameEnd i s t (divisionResult a b s >>= f) (divisionResult a b t >>= g) := by
  simp only [divisionResult, bind_assoc]
  refine .bind_readR h (fun A _ => .bind_readR h (fun B _ => ?_) hb) ha
  split
  next => exact .trap _
  next => exact hfg A B

/-! ### Destinations: the same write from both states -/

/-- A canonical Integer that passes R27's check is held. -/
theorem holds_of_canonical {c : Config} {A : Integer} (hA : A.canonical = true) (hfits : c.fits A = true) :
    c.holds A = true := by
  rw [Config.holds, hA, hfits]; rfl

theorem SameEnd.writeR (h : ReadsAgree i s t) {d : RegIdx} {A : Integer}
    (hd : destinationsOf i = { r := [d] }) (hA : s.Inv → A.canonical = true) :
    SameEnd i s t (s.writeR d A) (t.writeR d A) := by
  unfold State.writeR
  rw [← h.cfg]
  split
  next hfits => exact .done (.writeR d A 0) ⟨hd, fun hs => holds_of_canonical (hA hs) hfits, nofun⟩
  next => exact .trap _

/-- Two register writes in a row: both, or `F_CAPACITY` (10_state.md R27). -/
theorem State.writeR_writeR (u : State) (d c : RegIdx) (A B : Integer) :
    (u.writeR d A >>= fun v => v.writeR c B) =
      if u.cfg.fits A = true ∧ u.cfg.fits B = true then .ok ((u.setR d A).setR c B)
      else .error (.trap .capacity) := by
  by_cases hA : u.cfg.fits A = true
  · by_cases hB : u.cfg.fits B = true <;> simp [State.writeR, hA, hB, bind, Except.bind]
  · simp [State.writeR, hA, bind, Except.bind]

theorem SameEnd.writeTwoR (h : ReadsAgree i s t) {d c : RegIdx} {A B : Integer}
    (hd : destinationsOf i = { r := [d, c] }) (hA : A.canonical = true) (hB : B.canonical = true) :
    SameEnd i s t (s.writeR d A >>= fun u => u.writeR c B) (t.writeR d A >>= fun u => u.writeR c B) := by
  rw [State.writeR_writeR, State.writeR_writeR, ← h.cfg]
  split
  next hfits =>
    exact .done (.writeTwoR d c A B)
      ⟨hd, fun _ => ⟨holds_of_canonical hA hfits.1, holds_of_canonical hB hfits.2⟩, nofun⟩
  next => exact .trap _

theorem holdsPoint_of_canonical {c : Config} {A : Point} (hA : A.x.canonical = true ∧ A.y.canonical = true)
    (hfits : c.fitsPoint A = true) : c.holdsPoint A = true := by
  simp only [Config.fitsPoint, Bool.and_eq_true] at hfits
  rw [Config.holdsPoint, holds_of_canonical hA.1 hfits.1, holds_of_canonical hA.2 hfits.2]; rfl

theorem SameEnd.writeP (h : ReadsAgree i s t) {d : RegIdx} {A : Point}
    (hd : destinationsOf i = { p := [d] }) (hA : s.Inv → A.x.canonical = true ∧ A.y.canonical = true) :
    SameEnd i s t (s.writeP d A) (t.writeP d A) := by
  unfold State.writeP
  rw [← h.cfg]
  split
  next hfits => exact .done (.writeP d A 0) ⟨hd, fun hs => holdsPoint_of_canonical (hA hs) hfits, nofun⟩
  next => exact .trap _

theorem SameEnd.writeCurve (h : ReadsAgree i s t) {k : CurveContext}
    (hd : destinationsOf i = { curve := true })
    (hk : s.Inv → k.p.canonical = true ∧ k.n.canonical = true ∧ k.g.x.canonical = true ∧ k.g.y.canonical = true) :
    SameEnd i s t (s.writeCurve k) (t.writeCurve k) := by
  unfold State.writeCurve
  rw [← h.cfg]
  split
  next hfits =>
    simp only [Bool.and_eq_true] at hfits
    obtain ⟨⟨hp, hn⟩, hg⟩ := hfits
    refine .done (.writeCurve k) ⟨hd, fun hs => ?_, nofun⟩
    obtain ⟨hcp, hcn, hcg⟩ := hk hs
    simp only [Effect.Held, holds_of_canonical hcp hp, holds_of_canonical hcn hn,
      holdsPoint_of_canonical hcg hg, Bool.and_self]
  next => exact .trap _

theorem SameEnd.storeText (h : ReadsAgree i s t) {text : List Byte}
    (hd : destinationsOf i = { buffer := true }) (htext : textOf s i = some text) :
    SameEnd i s t (s.storeText text) (t.storeText text) := by
  have hholds : t.bufferHolds text.length = s.bufferHolds text.length := by
    rw [State.bufferHolds, State.bufferHolds, h.cfg]
  rw [State.storeText_eq, State.storeText_eq, hholds]
  split
  next hfits =>
    exact .done (.writeText text) ⟨hd, fun _ => hfits, fun _ heq => by cases heq; exact htext⟩
  next => exact .trap _

/-! ### Undefined inputs -/

theorem ReadsAgree.freeInteger (h : ReadsAgree i s t) (part : Nat) : t.freeInteger part = s.freeInteger part := by
  rw [State.freeInteger, State.freeInteger, h.cfg, h.resets, h.draws]

theorem State.Inv.holds_freeInteger (hs : s.Inv) (part : Nat) : s.cfg.holds (s.freeInteger part) = true :=
  Config.holds_ofInt_cutToCapacity hs.cfgLegal _

theorem SameEnd.undefinedR (h : ReadsAgree i s t) {d : RegIdx} (hd : destinationsOf i = { r := [d] }) :
    SameEnd i s t (s.undefinedR d) (t.undefinedR d) := by
  unfold State.undefinedR
  rw [← h.resets, ← h.draws, h.freeInteger]
  split
  next =>
    have := SameEnd.done (t := t) (.writeR d (s.freeInteger 0) 1) ⟨hd, fun hs => hs.holds_freeInteger 0, nofun⟩
    rwa [Effect.apply, Effect.apply, ← h.draws] at this
  next => exact .stuck

theorem SameEnd.undefinedP (h : ReadsAgree i s t) {d : RegIdx} (hd : destinationsOf i = { p := [d] }) :
    SameEnd i s t (s.undefinedP d) (t.undefinedP d) := by
  unfold State.undefinedP
  rw [← h.resets, ← h.draws, h.freeInteger, h.freeInteger]
  split
  next =>
    have := SameEnd.done (t := t) (.writeP d { x := s.freeInteger 0, y := s.freeInteger 1 } 1)
      ⟨hd, fun hs => by
        rw [Effect.Held, Config.holdsPoint, hs.holds_freeInteger, hs.holds_freeInteger]; rfl, nofun⟩
    rwa [Effect.apply, Effect.apply, ← h.draws] at this
  next => exact .stuck

theorem SameEnd.pointResult (h : ReadsAgree i s t) {d : RegIdx} (hd : destinationsOf i = { p := [d] })
    (v : Option PointVal) : SameEnd i s t (pointResult d v s) (pointResult d v t) := by
  cases v with
  | none => exact .undefinedP h hd
  | some v => exact .writeP h hd fun _ => ⟨Integer.canonical_ofInt _, Integer.canonical_ofInt _⟩

/-! ### The shapes the commands share -/

theorem SameEnd.binaryOp (h : ReadsAgree i s t) {f : Integer → Integer → Integer} {d a b : RegIdx}
    (hd : destinationsOf i = { r := [d] }) (hf : ∀ A B, (f A B).canonical = true)
    (ha : a ∈ i.readsR := by simp [Instr.readsR]) (hb : b ∈ i.readsR := by simp [Instr.readsR]) :
    SameEnd i s t (binaryOp f d a b s) (binaryOp f d a b t) :=
  .bind_readR h (fun A _ => .bind_readR h (fun B _ => .writeR h hd fun _ => hf A B) hb) ha

theorem SameEnd.unaryOp (h : ReadsAgree i s t) {f : Integer → Integer} {d a : RegIdx}
    (hd : destinationsOf i = { r := [d] }) (hf : ∀ A, A.canonical = true → (f A).canonical = true)
    (ha : a ∈ i.readsR := by simp [Instr.readsR]) : SameEnd i s t (unaryOp f d a s) (unaryOp f d a t) :=
  .bind_readR h (fun A hA => .writeR h hd fun hs => hf A (hs.canonical_of_rReg hA)) ha

theorem SameEnd.shiftLeft (h : ReadsAgree i s t) {d a : RegIdx} {imm : BitVec 32}
    (hd : destinationsOf i = { r := [d] }) (ha : a ∈ i.readsR := by simp [Instr.readsR]) :
    SameEnd i s t (shiftLeft d a imm s) (shiftLeft d a imm t) := by
  refine .bind_readR h (fun A _ => ?_) ha
  dsimp only
  rw [← h.cfg]
  split
  next => exact .writeR h hd fun _ => A.canonical_shl _
  next => exact .trap _

theorem SameEnd.shiftRight (h : ReadsAgree i s t) {d a : RegIdx} {imm : BitVec 32}
    (hd : destinationsOf i = { r := [d] }) (ha : a ∈ i.readsR := by simp [Instr.readsR]) :
    SameEnd i s t (shiftRight d a imm s) (shiftRight d a imm t) :=
  .bind_readR h (fun A _ => .writeR h hd fun _ => A.canonical_shr _) ha

theorem SameEnd.shiftRightOut (h : ReadsAgree i s t) {d c a : RegIdx} {imm : BitVec 32}
    (hd : destinationsOf i = { r := [d, c] }) (ha : a ∈ i.readsR := by simp [Instr.readsR]) :
    SameEnd i s t (shiftRightOut d c a imm s) (shiftRightOut d c a imm t) :=
  .bind_destinationsDiffer <| .bind_readR h (fun A _ =>
    .writeTwoR h hd (A.canonical_shr _) (A.canonical_shiftedOut _)) ha

end

end Sys2Proof.Machine
end

section
/-! The walk through the thirty-five commands: what `exec` can do, once. -/

namespace Sys2Proof.Machine

theorem ReadsAgree.refl (i : Instr) (s : State) : ReadsAgree i s s :=
  ⟨rfl, rfl, rfl, fun _ _ => rfl, fun _ _ => rfl, fun _ => rfl, fun _ => rfl, fun _ _ _ => rfl⟩

/-- The command's runs from the two states end alike. -/
def EndsAlike (i : Instr) (s t : State) : Prop :=
  ∃ x y, exec i s = finish s x ∧ exec i t = finish t y ∧ SameEnd i s t x y

/-! ### The commands that check more than their sources -/

section
variable {s t : State}

theorem endsAlike_ldb {d : RegIdx} (h : ReadsAgree (.ldb d) s t) : EndsAlike (.ldb d) s t := by
  refine ⟨_, _, rfl, rfl, .bind_loadContent h rfl fun text => ?_⟩
  split
  next => exact .trap _
  next => exact .writeR h rfl fun _ => Integer.canonical_ofInt _

theorem endsAlike_lds {d : RegIdx} {m : BitVec 8} (h : ReadsAgree (.lds d m) s t) :
    EndsAlike (.lds d m) s t := by
  refine ⟨_, _, rfl, rfl, .bind_parseBase fun base => .bind_loadContent h rfl fun text => ?_⟩
  cases parseText base text with
  | ok z => exact .writeR h rfl fun _ => Integer.canonical_ofInt _
  | error c => exact .trap c

theorem endsAlike_modinv {d a b : RegIdx} (h : ReadsAgree (.modinv d a b) s t) :
    EndsAlike (.modinv d a b) s t := by
  refine ⟨_, _, rfl, rfl, .bind_readR h fun A _ => .bind_readR h fun P _ => ?_⟩
  split
  next => exact .trap _
  next =>
    split
    next => exact .writeR h rfl fun _ => Integer.canonical_ofInt _
    next => exact .undefinedR h rfl

theorem canonical_curveSet {id : Nat} {k : CurveContext} (hk : curveSet id = some k) :
    k.p.canonical = true ∧ k.n.canonical = true ∧ k.g.x.canonical = true ∧ k.g.y.canonical = true := by
  unfold curveSet at hk
  split at hk
  next =>
    obtain rfl : secp256k1 = k := Option.some.inj hk
    exact ⟨Integer.canonical_ofInt _, Integer.canonical_ofInt _, Integer.canonical_ofInt _,
      Integer.canonical_ofInt _⟩
  next => exact nomatch hk

theorem endsAlike_csel {imm : BitVec 32} (h : ReadsAgree (.csel imm) s t) : EndsAlike (.csel imm) s t := by
  refine ⟨_, _, rfl, rfl, ?_⟩
  split
  next k hk => exact .writeCurve h rfl fun _ => canonical_curveSet hk
  next => exact .trap _

theorem endsAlike_padd {d a b : RegIdx} (h : ReadsAgree (.padd d a b) s t) : EndsAlike (.padd d a b) s t := by
  refine ⟨_, _, rfl, rfl, .bind_readP h fun X _ => .bind_readP h fun Y _ =>
    .bind_readCurve h rfl fun k _ => ?_⟩
  split
  next => exact .trap _
  next => exact .pointResult h rfl _

theorem endsAlike_pdbl {d a : RegIdx} (h : ReadsAgree (.pdbl d a) s t) : EndsAlike (.pdbl d a) s t := by
  refine ⟨_, _, rfl, rfl, .bind_readP h fun X _ => .bind_readCurve h rfl fun k _ => ?_⟩
  split
  next => exact .trap _
  next => exact .pointResult h rfl _

theorem endsAlike_pmul {d a b : RegIdx} (h : ReadsAgree (.pmul d a b) s t) : EndsAlike (.pmul d a b) s t := by
  refine ⟨_, _, rfl, rfl, .bind_readR h fun k _ => .bind_readP h fun Q _ =>
    .bind_readCurve h rfl fun E _ => ?_⟩
  split
  next => exact .trap _
  next =>
    split
    next => exact .trap _
    next => exact .pointResult h rfl _

end

/-! ### All commands -/

/-- R39 for all thirty-five commands: each reads its listed sources and makes its listed write. -/
theorem exec_endsAlike (i : Instr) {s t : State} (h : ReadsAgree i s t) : EndsAlike i s t := by
  cases i with
  | ldi d imm => exact ⟨_, _, rfl, rfl, .writeR h rfl fun _ => canonical_normalize _ _⟩
  | ldb d => exact endsAlike_ldb h
  | lds d m => exact endsAlike_lds h
  | sts a m =>
    exact ⟨_, _, rfl, rfl, .bind_readR h fun A hA =>
      .bind_formatBase <| .storeText h rfl (by rw [textOf, hA]; rfl)⟩
  | add d a b => exact ⟨_, _, rfl, rfl, .binaryOp h rfl Integer.canonical_add⟩
  | addip d b => exact ⟨_, _, rfl, rfl, .binaryOp h rfl Integer.canonical_add⟩
  | sub d a b => exact ⟨_, _, rfl, rfl, .binaryOp h rfl Integer.canonical_sub⟩
  | subip d b => exact ⟨_, _, rfl, rfl, .binaryOp h rfl Integer.canonical_sub⟩
  | mul d a b => exact ⟨_, _, rfl, rfl, .binaryOp h rfl Integer.canonical_mul⟩
  | mulip d b => exact ⟨_, _, rfl, rfl, .binaryOp h rfl Integer.canonical_mul⟩
  | sqr d a => exact ⟨_, _, rfl, rfl, .unaryOp h rfl fun A _ => A.canonical_square⟩
  | neg d a => exact ⟨_, _, rfl, rfl, .unaryOp h rfl fun A _ => A.canonical_neg⟩
  | mov d a => exact ⟨_, _, rfl, rfl, .unaryOp h rfl fun _ hA => hA⟩
  | shl d a imm => exact ⟨_, _, rfl, rfl, .shiftLeft h rfl⟩
  | shlip d imm => exact ⟨_, _, rfl, rfl, .shiftLeft h rfl⟩
  | shr d a imm => exact ⟨_, _, rfl, rfl, .shiftRight h rfl⟩
  | shro d c a imm => exact ⟨_, _, rfl, rfl, .shiftRightOut h rfl⟩
  | shrip d imm => exact ⟨_, _, rfl, rfl, .shiftRight h rfl⟩
  | shripo d c imm => exact ⟨_, _, rfl, rfl, .shiftRightOut h rfl⟩
  | divq d a b =>
    exact ⟨_, _, rfl, rfl, .bind_divisionResult h fun A B => .writeR h rfl fun _ => (canonical_divrem A B).1⟩
  | divr d a b =>
    exact ⟨_, _, rfl, rfl, .bind_divisionResult h fun A B => .writeR h rfl fun _ => (canonical_divrem A B).2⟩
  | divqr d c a b =>
    exact ⟨_, _, rfl, rfl, .bind_destinationsDiffer <| .bind_divisionResult h fun A B =>
      .writeTwoR h rfl (canonical_divrem A B).1 (canonical_divrem A B).2⟩
  | modinv d a b => exact endsAlike_modinv h
  | csel imm => exact endsAlike_csel h
  | cset a b c =>
    exact ⟨_, _, rfl, rfl, .bind_readR h fun _ hp => .bind_readR h fun _ hn => .bind_readP h fun _ hg =>
      .writeCurve h rfl fun hs => ⟨hs.canonical_of_rReg hp, hs.canonical_of_rReg hn, hs.canonical_of_pReg hg⟩⟩
  | pmk d a b =>
    exact ⟨_, _, rfl, rfl, .bind_readR h fun _ hx => .bind_readR h fun _ hy =>
      .writeP h rfl fun hs => ⟨hs.canonical_of_rReg hx, hs.canonical_of_rReg hy⟩⟩
  | pgx d a =>
    exact ⟨_, _, rfl, rfl, .bind_readP h fun _ hX => .writeR h rfl fun hs => (hs.canonical_of_pReg hX).1⟩
  | pgy d a =>
    exact ⟨_, _, rfl, rfl, .bind_readP h fun _ hX => .writeR h rfl fun hs => (hs.canonical_of_pReg hX).2⟩
  | pmov d a =>
    exact ⟨_, _, rfl, rfl, .bind_readP h fun _ hX => .writeP h rfl fun hs => hs.canonical_of_pReg hX⟩
  | peq a b =>
    exact ⟨_, _, rfl, rfl, .bind_readP h fun X _ => .bind_readP h fun Y _ =>
      .done (.writeEq (pointsEqual X Y)) ⟨rfl, fun _ => trivial, nofun⟩⟩
  | psts a =>
    exact ⟨_, _, rfl, rfl, .bind_readP h fun X hX => .storeText h rfl (by rw [textOf, hX]; rfl)⟩
  | pldg d =>
    exact ⟨_, _, rfl, rfl, .bind_readCurve h rfl fun _ hk => .writeP h rfl fun hs => hs.canonical_of_curve hk⟩
  | padd d a b => exact endsAlike_padd h
  | pdbl d a => exact endsAlike_pdbl h
  | pmul d a b => exact endsAlike_pmul h

/-- What a command can do: raise a fault, stay busy, or complete with an effect it may have. -/
theorem exec_cases (i : Instr) (s : State) :
    (∃ c, exec i s = .next (s.faultEntry c)) ∨ exec i s = .next s ∨
      ∃ e : Effect, e.Of i s ∧ exec i s = .next (e.apply s).complete := by
  obtain ⟨x, y, hx, -, hend⟩ := exec_endsAlike i (ReadsAgree.refl i s)
  cases hend with
  | trap c => exact .inl ⟨c, hx⟩
  | stuck => exact .inr (.inl hx)
  | done e he => exact .inr (.inr ⟨e, he, hx⟩)

end Sys2Proof.Machine
end

section
/-! The frame of an effect, and with it what every command leaves unchanged and depends on
(10_state.md R39). -/

namespace Sys2Proof.Machine

/-! ### A stored text -/

/-- A stored text changes `IOBUF` and `IOLEN` only. -/
theorem State.withText_frame (s : State) (text : List Byte) :
    s.withText text =
      { s with iobuf := (s.withText text).iobuf, iolen := lengthWord text.length } := by
  rw [State.withText, State.setBytes_frame]; rfl

@[simp] theorem State.readByte_setLength (s : State) (n : BitVec 32) (k : Nat) :
    (s.setLength n).readByte k = s.readByte k := rfl

@[simp] theorem State.readByte_complete (s : State) (k : Nat) : s.complete.readByte k = s.readByte k := rfl

theorem State.readByte_withText (s : State) {text : List Byte} {k : Nat} (hk : k < text.length) :
    (s.withText text).readByte k = text[k] := by
  simpa [State.withText] using s.readByte_setBytes 0 k text hk

theorem State.readByte_withText_of_le (s : State) {text : List Byte} {k : Nat} (hk : text.length ≤ k) :
    (s.withText text).readByte k = s.readByte k := by
  simpa [State.withText] using s.readByte_setBytes_of_outside (k := 0) text (.inr (by omega))

/-- `IOLEN` never says more than the text's length, whatever the free value is (log 13). -/
theorem toNat_lengthWord_le (L : Nat) : (lengthWord L).toNat ≤ L := by
  unfold lengthWord
  split
  next => exact Nat.mod_le _ _
  next hL => have := (Config.overlongLength L).isLt; omega

/-! ### What an effect leaves unchanged -/

section
variable (e : Effect) (s : State)

/-- Everything no effect touches: the parameters, the HOST's side, `CMDREG`, and of `STATUS` all but `EQ`. -/
theorem Effect.apply_frame :
    e.apply s =
      { s with
        r := (e.apply s).r
        p := (e.apply s).p
        curve := (e.apply s).curve
        status := { s.status with eq := (e.apply s).status.eq }
        iobuf := (e.apply s).iobuf
        iolen := (e.apply s).iolen
        draws := (e.apply s).draws } := by
  cases e with
  | writeText text => rw [Effect.apply, State.withText_frame]
  | _ => rfl

@[simp] theorem Effect.apply_cfg : (e.apply s).cfg = s.cfg := by rw [Effect.apply_frame]
@[simp] theorem Effect.apply_cmdreg : (e.apply s).cmdreg = s.cmdreg := by rw [Effect.apply_frame]
@[simp] theorem Effect.apply_turns : (e.apply s).turns = s.turns := by rw [Effect.apply_frame]
@[simp] theorem Effect.apply_replies : (e.apply s).replies = s.replies := by rw [Effect.apply_frame]
@[simp] theorem Effect.apply_resets : (e.apply s).resets = s.resets := by rw [Effect.apply_frame]
@[simp] theorem Effect.apply_fault : (e.apply s).status.fault = s.status.fault := by rw [Effect.apply_frame]

variable {e s}

theorem Effect.rReg_apply {j : RegIdx} (hj : j ∉ e.destinations.r) : (e.apply s).rReg j = s.rReg j := by
  cases e with
  | writeR d A drawn => exact s.rReg_setR_of_ne A (by simpa [Effect.destinations] using hj)
  | writeTwoR d c A B =>
    obtain ⟨hd, hc⟩ : j ≠ d ∧ j ≠ c := by simpa [Effect.destinations] using hj
    exact ((s.setR d A).rReg_setR_of_ne B hc).trans (s.rReg_setR_of_ne A hd)
  | writeText text => rw [Effect.apply, State.withText_frame]; rfl
  | _ => rfl

theorem Effect.pReg_apply {j : RegIdx} (hj : j ∉ e.destinations.p) : (e.apply s).pReg j = s.pReg j := by
  cases e with
  | writeP d A drawn => exact s.pReg_setP_of_ne A (by simpa [Effect.destinations] using hj)
  | writeText text => rw [Effect.apply, State.withText_frame]; rfl
  | _ => rfl

theorem Effect.curve_apply (he : e.destinations.curve = false) : (e.apply s).curve = s.curve := by
  cases e with
  | writeCurve k => exact nomatch he
  | writeText text => rw [Effect.apply, State.withText_frame]
  | _ => rfl

theorem Effect.eq_apply (he : e.destinations.eq = false) : (e.apply s).status.eq = s.status.eq := by
  cases e with
  | writeEq b => exact nomatch he
  | writeText text => rw [Effect.apply, State.withText_frame]
  | _ => rfl

theorem Effect.iolen_apply (he : e.destinations.buffer = false) : (e.apply s).iolen = s.iolen := by
  cases e with
  | writeText text => exact nomatch he
  | _ => rfl

/-- A byte past the text that is stored, if one is, keeps its value. -/
theorem Effect.readByte_apply {k : Nat} (hk : ∀ text, e = .writeText text → text.length ≤ k) :
    (e.apply s).readByte k = s.readByte k := by
  cases e with
  | writeText text => exact s.readByte_withText_of_le (hk text rfl)
  | _ => rfl

end

/-! ### The frame of every command -/

section
variable {e : Effect} {i : Instr} {s t : State}

theorem Effect.Of.writesR_eq (he : e.Of i s) : i.writesR = e.destinations.r :=
  congrArg Destinations.r he.destinations

theorem Effect.Of.writesP_eq (he : e.Of i s) : i.writesP = e.destinations.p :=
  congrArg Destinations.p he.destinations

theorem Effect.Of.writesCurve_eq (he : e.Of i s) : i.writesCurve = e.destinations.curve :=
  congrArg Destinations.curve he.destinations

theorem Effect.Of.writesEq_eq (he : e.Of i s) : i.writesEq = e.destinations.eq :=
  congrArg Destinations.eq he.destinations

theorem Effect.Of.writesBuffer_eq (he : e.Of i s) : i.writesBuffer = e.destinations.buffer :=
  congrArg Destinations.buffer he.destinations

/-- A command that R39 does not list as writing the buffer leaves every byte. -/
theorem Effect.Of.readByte_apply_of_not_writesBuffer (he : e.Of i s) (hi : i.writesBuffer = false) (k : Nat) :
    (e.apply s).readByte k = s.readByte k := by
  refine Effect.readByte_apply fun text htext => ?_
  rw [he.writesBuffer_eq, htext] at hi
  exact nomatch hi

/-- A storing command leaves every byte past its text. -/
theorem Effect.Of.readByte_apply_of_textOf (he : e.Of i s) {text : List Byte} (htext : textOf s i = some text)
    {k : Nat} (hk : text.length ≤ k) : (e.apply s).readByte k = s.readByte k := by
  refine Effect.readByte_apply fun text' htext' => ?_
  obtain rfl : text = text' := Option.some.inj (htext.symm.trans (he.text text' htext'))
  exact hk

end

/-- Settles O19: by the frame of the effect the command completes with; a fault entry and a stuck command
leave every field the statement names. -/
theorem commandsWriteOnlyTheirDestinations : Obligations.CommandsWriteOnlyTheirDestinations := by
  unfold Obligations.CommandsWriteOnlyTheirDestinations
  intro i s t hexec
  obtain ⟨c, h⟩ | h | ⟨e, he, h⟩ := exec_cases i s
  all_goals
    rw [h] at hexec
    cases hexec
  · exact ⟨fun _ _ => rfl, fun _ _ => rfl, fun _ => rfl, fun _ => rfl, fun _ => ⟨rfl, fun _ => rfl⟩,
      fun _ _ _ _ _ _ _ => rfl, fun _ _ _ _ _ _ => rfl, rfl, rfl, rfl, rfl, rfl, .inr ⟨c, rfl⟩⟩
  · exact ⟨fun _ _ => rfl, fun _ _ => rfl, fun _ => rfl, fun _ => rfl, fun _ => ⟨rfl, fun _ => rfl⟩,
      fun _ _ _ _ _ _ _ => rfl, fun _ _ _ _ _ _ => rfl, rfl, rfl, rfl, rfl, rfl, .inl rfl⟩
  · refine ⟨fun j hj => Effect.rReg_apply (he.writesR_eq ▸ hj), fun j hj => Effect.pReg_apply (he.writesP_eq ▸ hj),
      fun hi => Effect.curve_apply (he.writesCurve_eq ▸ hi), fun hi => Effect.eq_apply (he.writesEq_eq ▸ hi),
      fun hi => ⟨Effect.iolen_apply (he.writesBuffer_eq ▸ hi), he.readByte_apply_of_not_writesBuffer hi⟩,
      fun a m A hi hA k hk => ?sts, fun a A hi hA k hk => ?psts, e.apply_cfg s, e.apply_cmdreg s,
      e.apply_turns s, e.apply_replies s, e.apply_resets s, .inl (e.apply_fault s)⟩
    case sts => exact he.readByte_apply_of_textOf (by rw [hi, textOf, hA]; rfl) hk
    case psts => exact he.readByte_apply_of_textOf (by rw [hi, textOf, hA]; rfl) hk

/-! ### The dependence of every command: an effect's values are the same in whatever state they are put -/

section
variable {e : Effect}

theorem Effect.rReg_apply_eq {j : RegIdx} (hj : j ∈ e.destinations.r) (s t : State) :
    (e.apply s).rReg j = (e.apply t).rReg j := by
  cases e with
  | writeR d A drawn =>
    obtain rfl : j = d := by simpa [Effect.destinations] using hj
    exact (s.rReg_setR_self j A).trans (t.rReg_setR_self j A).symm
  | writeTwoR d c A B =>
    by_cases hc : j = c
    · subst hc
      exact ((s.setR d A).rReg_setR_self j B).trans ((t.setR d A).rReg_setR_self j B).symm
    · obtain rfl : j = d := by simpa [Effect.destinations, hc] using hj
      have hwrite : ∀ u : State, ((u.setR j A).setR c B).rReg j = some A := fun u =>
        ((u.setR j A).rReg_setR_of_ne B hc).trans (u.rReg_setR_self j A)
      exact (hwrite s).trans (hwrite t).symm
  | _ => exact nomatch hj

theorem Effect.pReg_apply_eq {j : RegIdx} (hj : j ∈ e.destinations.p) (s t : State) :
    (e.apply s).pReg j = (e.apply t).pReg j := by
  cases e with
  | writeP d A drawn =>
    obtain rfl : j = d := by simpa [Effect.destinations] using hj
    exact (s.pReg_setP_self j A).trans (t.pReg_setP_self j A).symm
  | _ => exact nomatch hj

theorem Effect.curve_apply_eq (he : e.destinations.curve = true) (s t : State) :
    (e.apply s).curve = (e.apply t).curve := by
  cases e with
  | writeCurve k => rfl
  | _ => exact nomatch he

theorem Effect.eq_apply_eq (he : e.destinations.eq = true) (s t : State) :
    (e.apply s).status.eq = (e.apply t).status.eq := by
  cases e with
  | writeEq b => rfl
  | _ => exact nomatch he

theorem Effect.iolen_apply_eq (he : e.destinations.buffer = true) (s t : State) :
    (e.apply s).iolen = (e.apply t).iolen := by
  cases e with
  | writeText text => rfl
  | _ => exact nomatch he

theorem Effect.readByte_apply_eq (he : e.destinations.buffer = true) (s t : State) {k : Nat}
    (hk : k < (e.apply s).iolen.toNat) : (e.apply s).readByte k = (e.apply t).readByte k := by
  cases e with
  | writeText text =>
    have hk' : k < text.length := Nat.lt_of_lt_of_le hk (toNat_lengthWord_le _)
    exact (s.readByte_withText hk').trans (t.readByte_withText hk').symm
  | _ => exact nomatch he

theorem Effect.Of.writesAgree {i : Instr} {s : State} (he : e.Of i s) (t : State) :
    WritesAgree i (e.apply s).complete (e.apply t).complete where
  r _ hj := Effect.rReg_apply_eq (he.writesR_eq ▸ hj) s t
  p _ hj := Effect.pReg_apply_eq (he.writesP_eq ▸ hj) s t
  curve hi := Effect.curve_apply_eq (he.writesCurve_eq ▸ hi) s t
  eq hi := Effect.eq_apply_eq (he.writesEq_eq ▸ hi) s t
  iolen hi := Effect.iolen_apply_eq (he.writesBuffer_eq ▸ hi) s t
  iobuf hi _ hk := Effect.readByte_apply_eq (he.writesBuffer_eq ▸ hi) s t hk

end

/-- Settles O20: the two runs end alike, and an effect's values do not depend on where it is put. -/
theorem commandsDependOnlyOnTheirOperands : Obligations.CommandsDependOnlyOnTheirOperands := by
  unfold Obligations.CommandsDependOnlyOnTheirOperands
  intro i s t hagree
  obtain ⟨x, y, hs, ht, hend⟩ := exec_endsAlike i hagree
  cases hend with
  | trap c => exact .inl ⟨c, hs, ht⟩
  | stuck => exact .inr (.inl ⟨hs, ht⟩)
  | done e he =>
    exact .inr (.inr ⟨_, _, hs, ht, he.writesAgree t, rfl, rfl, e.apply_fault s, e.apply_fault t⟩)

end Sys2Proof.Machine
end

section
/-! The invariant (10_state.md R23 to R30, 20_memory.md R50, 60_exceptions.md R231): it holds at reset, and
every update of the state keeps it. -/

namespace Sys2Proof.Machine

/-! ### Reset -/

theorem inv_resetWith {c : Config} (hc : c.wf = true) : (State.resetWith c).Inv where
  cfgLegal := hc
  rHeld i := by simp
  pHeld i := by simp
  curveHeld := rfl
  bufferCanonical := rfl
  bufferInRange := rfl
  busyUnfaulted := nofun
  faultKnown := by simp [State.resetWith]

/-- Settles O11: no register is valid after reset, and the buffer lists no byte. -/
theorem resetMeetsInv : Obligations.ResetMeetsInv := by
  unfold Obligations.ResetMeetsInv
  exact ⟨fun _ => inv_resetWith, inv_resetWith rfl⟩

/-! ### Registers -/

section
variable {s : State}

theorem State.Inv.setR (hs : s.Inv) (d : RegIdx) {A : Integer} (hA : s.cfg.holds A = true) : (s.setR d A).Inv :=
  { hs with
    rHeld := fun j => by
      by_cases hj : j = d
      · subst hj; simpa using hA
      · rw [s.rReg_setR_of_ne A hj]; exact hs.rHeld j }

theorem State.Inv.setP (hs : s.Inv) (d : RegIdx) {A : Point} (hA : s.cfg.holdsPoint A = true) :
    (s.setP d A).Inv :=
  { hs with
    pHeld := fun j => by
      by_cases hj : j = d
      · subst hj; simpa using hA
      · rw [s.pReg_setP_of_ne A hj]; exact hs.pHeld j }

/-! ### The buffer -/

theorem State.Inv.setByte (hs : s.Inv) {k : Nat} (b : Byte) (hk : s.inBuffer k = true) : (s.setByte k b).Inv :=
  { hs with
    bufferCanonical := s.setByte_wf k b hs.bufferCanonical
    bufferInRange := s.setByte_bufferInRange k b hk hs.bufferInRange }

theorem State.Inv.setLength (hs : s.Inv) (n : BitVec 32) : (s.setLength n).Inv := { hs with }

/-- Every offset below a length the buffer holds exists (20_memory.md R52). -/
theorem State.inBuffer_of_bufferHolds {n k : Nat} (hn : s.bufferHolds n = true) (hk : k < n) :
    s.inBuffer k = true := by
  cases hsize : s.cfg.iobufSize with
  | none => simp only [State.inBuffer, hsize]
  | some size =>
    simp only [State.bufferHolds, State.inBuffer, hsize, decide_eq_true_eq] at hn ⊢
    omega

theorem State.Inv.setBytes (hs : s.Inv) {k : Nat} {text : List Byte}
    (htext : ∀ j, k ≤ j → j < k + text.length → s.inBuffer j = true) : (s.setBytes k text).Inv := by
  induction text generalizing s k with
  | nil => exact hs
  | cons b bs ih =>
    simp only [List.length_cons] at htext
    exact ih (hs.setByte b (htext k (by omega) (by omega))) fun j hkj hj => htext j (by omega) (by omega)

theorem State.Inv.withText (hs : s.Inv) {text : List Byte} (htext : s.bufferHolds text.length = true) :
    (s.withText text).Inv :=
  (hs.setBytes fun _ _ hj => State.inBuffer_of_bufferHolds htext (by omega)).setLength _

/-! ### The status and the HOST's side -/

theorem State.Inv.complete (hs : s.Inv) : s.complete.Inv := { hs with busyUnfaulted := nofun }

theorem FaultCode.code_le (c : FaultCode) : c.code ≤ 9 := by
  cases c <;> decide

theorem State.Inv.faultEntry (hs : s.Inv) (c : FaultCode) : (s.faultEntry c).Inv :=
  { hs with
    busyUnfaulted := nofun
    faultKnown := c.code_le }

theorem State.Inv.latch (hs : s.Inv) (w : BitVec 64) (hfault : s.status.fault = 0) : (s.latch w).Inv :=
  { hs with busyUnfaulted := fun _ => hfault }

theorem State.Inv.withTurns (hs : s.Inv) (ts : List HostTurn) : State.Inv { s with turns := ts } := { hs with }

theorem State.Inv.reply (hs : s.Inv) (v : HostReply) : (s.reply v).Inv := { hs with }

theorem State.Inv.hostReset (hs : s.Inv) : s.hostReset.Inv := { inv_resetWith hs.cfgLegal with }

/-! ### A command's effect and a host action -/

theorem State.Inv.apply (hs : s.Inv) {e : Effect} (he : e.Held s) : (e.apply s).Inv := by
  cases e with
  | writeR d A drawn => exact { hs.setR d he with }
  | writeTwoR d c A B => exact (hs.setR d he.1).setR c he.2
  | writeP d A drawn => exact { hs.setP d he with }
  | writeCurve k => exact { hs with curveHeld := he }
  | writeEq b => exact { hs with }
  | writeText text => exact hs.withText he

theorem State.Inv.hostAct (hs : s.Inv) (a : HostAction) : (hostAct s a).Inv := by
  cases a with
  | reset => exact hs.hostReset
  | wrBuf k b =>
    simp only [Machine.hostAct]
    split
    next hen =>
      simp only [Bool.and_eq_true] at hen
      exact hs.setByte b hen.2
    next => exact hs
  | wrLen n =>
    simp only [Machine.hostAct]
    split
    next => exact hs.setLength n
    next => exact hs
  | rdBuf k =>
    simp only [Machine.hostAct]
    split
    next => exact hs.reply _
    next =>
      split
      next => exact hs.reply _
      next => exact hs
  | rdLen => exact hs.reply _
  | rdStatus => exact hs.reply _
  | issue w =>
    simp only [Machine.hostAct]
    split
    next hen =>
      simp only [Bool.and_eq_true, beq_iff_eq] at hen
      exact hs.latch w hen.2
    next => exact hs

end

end Sys2Proof.Machine
end

section
/-! One step of the machine (20_memory.md R57, R59): it always has a next state, and keeps the invariant. -/

namespace Sys2Proof.Machine

/-! ### What a step can do -/

/-- The next step is the HOST's action or the CORE's turn, on the state with one turn used up. -/
theorem step_cases (s : State) :
    (∃ a, step s = .next (hostAct { s with turns := s.turns.tail } a)) ∨
      step s = coreTurn { s with turns := s.turns.tail } := by
  unfold step
  split
  next a rest hturns => exact .inl ⟨a, by rw [hturns, List.tail_cons]⟩
  next rest hturns => exact .inr (by rw [hturns, List.tail_cons])
  next hturns =>
    right
    cases s
    cases hturns
    rfl

/-- The CORE's turn: nothing, or what the latched command can do (20_memory.md R57). -/
theorem coreTurn_cases (s : State) :
    coreTurn s = .next s ∨ (∃ c, coreTurn s = .next (s.faultEntry c)) ∨
      ∃ (i : Instr) (e : Effect), e.Of i s ∧ coreTurn s = .next (e.apply s).complete := by
  unfold coreTurn
  split
  next =>
    unfold commandStep
    split
    next i _ =>
      obtain hfault | hstuck | ⟨e, he, hdone⟩ := exec_cases i s
      · exact .inr (.inl hfault)
      · exact .inl hstuck
      · exact .inr (.inr ⟨i, e, he, hdone⟩)
    next => exact .inr (.inl ⟨.illegal, rfl⟩)
  next => exact .inl rfl

theorem hostAct_frame (s : State) (a : HostAction) :
    (hostAct s a).cfg = s.cfg ∧ (hostAct s a).turns = s.turns := by
  cases a with
  | wrBuf k b => simp only [hostAct]; split <;> exact ⟨rfl, rfl⟩
  | wrLen n => simp only [hostAct]; split <;> exact ⟨rfl, rfl⟩
  | rdBuf k =>
    simp only [hostAct]
    split
    next => exact ⟨rfl, rfl⟩
    next => split <;> exact ⟨rfl, rfl⟩
  | issue w => simp only [hostAct]; split <;> exact ⟨rfl, rfl⟩
  | _ => exact ⟨rfl, rfl⟩

/-- Settles O10: a host action always has a next state, and so does everything a command can do. -/
theorem stepAlwaysAnswersNext : Obligations.StepAlwaysAnswersNext := by
  unfold Obligations.StepAlwaysAnswersNext
  intro s
  obtain ⟨a, ha⟩ | hcore := step_cases s
  · exact ⟨_, ha, hostAct_frame _ a⟩
  · obtain hidle | ⟨c, hfault⟩ | ⟨i, e, -, hdone⟩ := coreTurn_cases { s with turns := s.turns.tail }
    · exact ⟨_, hcore.trans hidle, rfl, rfl⟩
    · exact ⟨_, hcore.trans hfault, rfl, rfl⟩
    · exact ⟨_, hcore.trans hdone, e.apply_cfg _, e.apply_turns _⟩

/-- Settles O12: host actions and fault entry keep the invariant, and a command completes with values that
it asks for. -/
theorem stepKeepsInv : Obligations.StepKeepsInv := by
  unfold Obligations.StepKeepsInv
  intro s t hs hstep
  have hs' := hs.withTurns s.turns.tail
  obtain ⟨a, ha⟩ | hcore := step_cases s
  · cases ha.symm.trans hstep
    exact hs'.hostAct a
  · obtain hidle | ⟨c, hfault⟩ | ⟨i, e, he, hdone⟩ := coreTurn_cases { s with turns := s.turns.tail }
    · cases (hcore.trans hidle).symm.trans hstep
      exact hs'
    · cases (hcore.trans hfault).symm.trans hstep
      exact hs'.faultEntry c
    · cases (hcore.trans hdone).symm.trans hstep
      exact (hs'.apply (he.held hs')).complete

end Sys2Proof.Machine
end

section
/-! The word of `STATUS` (10_state.md R31), and the command that runs when the HOST issues its word. -/

namespace Sys2Proof.Machine

/-- An appended word is the high part, shifted up, plus the low part. -/
theorem toNat_append_eq_add {m n : Nat} (x : BitVec m) (y : BitVec n) :
    (x ++ y).toNat = x.toNat * 2 ^ n + y.toNat := by
  rw [BitVec.toNat_append, ← Nat.shiftLeft_add_eq_or_of_lt y.isLt, Nat.shiftLeft_eq]

/-- The fields of `STATUS` do not overlap and the reserved bits are zero, so the word is their sum. -/
theorem Status.toNat_word (t : Status) :
    t.word.toNat = t.busy.toNat + 2 * t.eq.toNat + 16 * t.fault.toNat := by
  simp only [Status.word, toNat_append_eq_add, BitVec.toNat_ofBool, BitVec.ofNat_eq_ofNat,
    BitVec.toNat_zero]
  omega

/-- Settles O18: by the sum of the fields, and by R231's table cause by cause. -/
theorem statusWordLayout : Obligations.StatusWordLayout := by
  unfold Obligations.StatusWordLayout
  refine ⟨Status.toNat_word, fun s p hp => ?_, fun c => by cases c <;> decide⟩
  have hcode : p.1.code.toNat = p.2 := by
    revert p
    decide
  refine ⟨hcode, ?_⟩
  rw [Status.toNat_word, State.faultEntry_status, hcode, Bool.toNat_false, Nat.zero_add]

end Sys2Proof.Machine

namespace Sys2Proof

/-- The decoder reads a command back from its word (30_encoding.md R75, R79). -/
theorem decode_encode (i : Instr) : decode (encode i) = .ok i := by
  rw [decode, encode, fieldsOf_packFields]
  cases i <;> rfl

end Sys2Proof

namespace Sys2Proof.Machine

/-- A busy block's turn runs the command whose word is latched (20_memory.md R57). -/
theorem coreTurn_of_latched {s : State} {i : Instr} (hbusy : s.status.busy = true) (hword : s.cmdreg = encode i) :
    coreTurn s = exec i s := by
  rw [coreTurn, if_pos hbusy, commandStep, hword, decode_encode]

/-- `H_ISSUE` to an idle block without a fault latches the word (20_memory.md R57). -/
theorem hostAct_issue_of_enabled {s : State} (w : BitVec 64) (hbusy : s.status.busy = false)
    (hfault : s.status.fault = 0) : hostAct s (.issue w) = s.latch w := by
  simp [hostAct, hbusy, hfault]

/-- Settles O17: the issue latches the word, and the CORE's turn decodes it back. -/
theorem issuedCommandRuns : Obligations.IssuedCommandRuns := by
  unfold Obligations.IssuedCommandRuns
  intro s rest i hturns hbusy hfault
  have hissue : step s =
      .next { s with turns := .core :: rest, cmdreg := encode i, status := { s.status with busy := true } } := by
    simp only [step, hturns]
    exact congrArg _ (hostAct_issue_of_enabled (s := { s with turns := .core :: rest }) _ hbusy hfault)
  exact ⟨_, hissue, coreTurn_of_latched rfl rfl⟩

end Sys2Proof.Machine
end

section
/-! One turn of the schedule (20_memory.md R57 to R59): the CORE runs the latched command, and each host
action, enabled or not, has the effect R57 or R58 gives it. -/

namespace Sys2Proof.Machine

/-! ### The next step, by the turn that is due -/

section
variable {s : State}

theorem step_of_noTurns (h : s.turns = []) : step s = coreTurn s := by
  rw [step, h]

theorem step_of_coreFirst {rest : List HostTurn} (h : s.turns = .core :: rest) :
    step s = coreTurn { s with turns := rest } := by
  rw [step, h]

theorem step_of_actFirst {a : HostAction} {rest : List HostTurn} (h : s.turns = .act a :: rest) :
    step s = .next (hostAct { s with turns := rest } a) := by
  rw [step, h]

/-- The step of a host action's turn, when the action's effect is known. -/
theorem step_of_hostAct {a : HostAction} {rest : List HostTurn} {t : State} (hturns : s.turns = .act a :: rest)
    (hact : hostAct { s with turns := rest } a = t) : step s = .next t :=
  (step_of_actFirst hturns).trans (congrArg _ hact)

/-! ### The CORE's turn -/

/-- A busy block's turn runs the command its latched word decodes to (30_encoding.md R79). -/
theorem coreTurn_of_decoded {i : Instr} (hbusy : s.status.busy = true) (hword : decode s.cmdreg = .ok i) :
    coreTurn s = exec i s := by
  rw [coreTurn, if_pos hbusy, commandStep, hword]

theorem decodeTableWord_eq_some {nbits w : Nat} {i : Instr} :
    decodeTableWord nbits w = some i ↔ decode (BitVec.ofNat 64 (w % 2 ^ nbits)) = .ok i := by
  rw [decodeTableWord]
  cases decode (BitVec.ofNat 64 (w % 2 ^ nbits)) <;> simp [Except.toOption]

/-- The CORE is let go right after `withFetchWord`, before any turn the HOST had pending (log 10). -/
theorem step_withFetchWord (s : State) (nbits w : Nat) :
    step (s.withFetchWord nbits w) = coreTurn (s.latch (BitVec.ofNat 64 (w % 2 ^ nbits))) := by
  obtain ⟨_, _, _, _, _, _, _, _, turns, _, _, _⟩ := s
  cases turns with
  | nil => rfl
  | cons t ts => rfl

end

/-- Settles O8: by the turn that is due, and by the word that is latched. -/
theorem stepRunsTheDecodedCommand : Obligations.StepRunsTheDecodedCommand := by
  unfold Obligations.StepRunsTheDecodedCommand
  refine ⟨fun s i hbusy hword => ⟨fun hturns => ?none, fun rest hturns => ?core⟩,
    fun s a rest hturns => step_of_actFirst hturns, fun s nbits w i hword => ?fetched⟩
  case none => exact (step_of_noTurns hturns).trans (coreTurn_of_decoded hbusy hword)
  case core => exact (step_of_coreFirst hturns).trans (coreTurn_of_decoded hbusy hword)
  case fetched =>
    exact (step_withFetchWord s nbits w).trans (coreTurn_of_decoded rfl (decodeTableWord_eq_some.mp hword))

/-! ### The HOST's actions on the buffer and on `IOLEN` -/

section
variable {s : State}

theorem hostAct_wrBuf_of_enabled {k : Nat} (b : Byte) (hbusy : s.status.busy = false)
    (hk : s.inBuffer k = true) : hostAct s (.wrBuf k b) = s.setByte k b := by
  simp [hostAct, hbusy, hk]

theorem hostAct_wrBuf_of_disabled {k : Nat} (b : Byte) (h : s.status.busy = true ∨ s.inBuffer k = false) :
    hostAct s (.wrBuf k b) = s := by
  obtain hbusy | hk := h
  · simp [hostAct, hbusy]
  · simp [hostAct, hk]

theorem hostAct_wrLen_of_idle (n : BitVec 32) (hbusy : s.status.busy = false) :
    hostAct s (.wrLen n) = s.setLength n := by
  simp [hostAct, hbusy]

theorem hostAct_wrLen_of_busy (n : BitVec 32) (hbusy : s.status.busy = true) : hostAct s (.wrLen n) = s := by
  simp [hostAct, hbusy]

theorem hostAct_rdBuf_of_enabled {k : Nat} (hbusy : s.status.busy = false) (hk : s.inBuffer k = true) :
    hostAct s (.rdBuf k) = s.reply (.byte (s.readByte k)) := by
  simp [hostAct, hbusy, hk]

theorem hostAct_rdBuf_of_outside {k : Nat} (hbusy : s.status.busy = false) (hk : s.inBuffer k = false) :
    hostAct s (.rdBuf k) = s := by
  simp [hostAct, hbusy, hk]

/-- A busy block answers a byte that nothing constrains (20_memory.md R58; log 11). -/
theorem hostAct_rdBuf_of_busy (k : Nat) (hbusy : s.status.busy = true) :
    hostAct s (.rdBuf k) = s.reply (.byte (s.busyValue.setWidth 8)) := by
  simp [hostAct, hbusy]

theorem hostAct_rdLen_of_idle (hbusy : s.status.busy = false) :
    hostAct s .rdLen = s.reply (.length s.iolen) := by
  simp [hostAct, hbusy]

/-- A busy block answers a length that nothing constrains (20_memory.md R58; log 11). -/
theorem hostAct_rdLen_of_busy (hbusy : s.status.busy = true) :
    hostAct s .rdLen = s.reply (.length s.busyValue) := by
  simp [hostAct, hbusy]

/-! ### `H_RDSTATUS` and a disabled `H_ISSUE` -/

/-- `H_RDSTATUS` is enabled in every state (20_memory.md R57). -/
theorem hostAct_rdStatus (s : State) : hostAct s .rdStatus = s.reply (.status s.status.word) := rfl

theorem hostAct_issue_of_disabled (w : BitVec 64) (h : s.status.busy = true ∨ s.status.fault ≠ 0) :
    hostAct s (.issue w) = s := by
  obtain hbusy | hfault := h
  · simp [hostAct, hbusy]
  · simp only [hostAct, beq_false_of_ne hfault, Bool.and_false, Bool.false_eq_true, if_false]

end

/-- Settles O14: by the effect of each enabled action, and by what a byte write leaves in the buffer. -/
theorem enabledHostActions : Obligations.EnabledHostActions := by
  unfold Obligations.EnabledHostActions
  refine fun s rest => ⟨fun k b hturns hbusy hk => ?wrBuf,
    fun n hturns hbusy => step_of_hostAct hturns (hostAct_wrLen_of_idle n hbusy),
    fun k hturns hbusy hk => step_of_hostAct hturns (hostAct_rdBuf_of_enabled hbusy hk),
    fun hturns hbusy => step_of_hostAct hturns (hostAct_rdLen_of_idle hbusy),
    fun hturns => step_of_hostAct hturns (hostAct_rdStatus _),
    fun w hturns hbusy hfault => step_of_hostAct hturns (hostAct_issue_of_enabled w hbusy hfault)⟩
  case wrBuf =>
    exact ⟨_, step_of_hostAct hturns (hostAct_wrBuf_of_enabled b hbusy hk), rfl,
      State.readByte_setByte_self _ k b, fun j hj => State.readByte_setByte_of_ne _ b hj⟩

/-- Settles O15: each action that is not enabled is the identity, or answers a value while busy. -/
theorem disabledHostActionsChangeNothing : Obligations.DisabledHostActionsChangeNothing := by
  unfold Obligations.DisabledHostActionsChangeNothing
  exact fun s rest => ⟨
    fun k b hturns h => step_of_hostAct hturns (hostAct_wrBuf_of_disabled b h),
    fun n hturns hbusy => step_of_hostAct hturns (hostAct_wrLen_of_busy n hbusy),
    fun w hturns h => step_of_hostAct hturns (hostAct_issue_of_disabled w h),
    fun k hturns hbusy hk => step_of_hostAct hturns (hostAct_rdBuf_of_outside hbusy hk),
    fun k hturns hbusy => ⟨_, step_of_hostAct hturns (hostAct_rdBuf_of_busy k hbusy)⟩,
    fun hturns hbusy => ⟨_, step_of_hostAct hturns (hostAct_rdLen_of_busy hbusy)⟩⟩

end Sys2Proof.Machine
end

section
/-! The command encoding (30_encoding.md R71 to R76): a word is the sum of its fields, a word that decodes is
the word of its command, and the decoder selects the rows of the opcode table. -/

namespace Sys2Proof

open Machine (toNat_append_eq_add)

/-! ### The fields of a word -/

/-- The word with the given fields is their positional sum (30_encoding.md R71). -/
theorem toNat_packFields (f : Fields) :
    (packFields f).toNat = f.op.toNat * 2 ^ 56 + f.d.toNat * 2 ^ 52 + f.a.toNat * 2 ^ 48
      + f.b.toNat * 2 ^ 44 + f.c.toNat * 2 ^ 40 + f.m.toNat * 2 ^ 32 + f.imm.toNat := by
  simp only [packFields, toNat_append_eq_add]
  ring

/-- Settles O1: every word is the word of its own fields. -/
theorem formatFieldsArePositional : Obligations.FormatFieldsArePositional := by
  unfold Obligations.FormatFieldsArePositional
  intro w
  rw [← toNat_packFields, packFields_fieldsOf]

/-! ### Decoding and encoding -/

/-- An arm of the decoder answers its own command, with the check that R76 asks for passed. -/
theorem fields_of_ifZero {op : BitVec 8} {unusedZero : Bool} {i j : Instr} {f : Fields}
    (h : ifZero op unusedZero j = .ok i) (hfields : unusedZero = true → j.fields = f) : i.fields = f := by
  obtain ⟨hzero, rfl⟩ := (ifZero_eq_ok op unusedZero j i).mp h
  exact hfields hzero

theorem eq_ofNat_of_toNat_eq {op : BitVec 8} {n : Nat} (h : op.toNat = n) : op = BitVec.ofNat 8 n := by
  rw [← h, BitVec.ofNat_toNat, BitVec.setWidth_eq]

/-- Each arm of the decoder takes its operands from their fields and checks that the other fields are zero
(30_encoding.md R76, R79), so the fields are those of the command it answers. -/
theorem fields_of_decodeFields {f : Fields} {i : Instr} (h : decodeFields f = .ok i) : i.fields = f := by
  obtain ⟨op, d, a, b, c, m, imm⟩ := f
  unfold decodeFields at h
  split at h
  -- The last arm is the reserved operation codes; arms 16 to 18 (0x1B, 0x1C, 0x20) choose by the mode.
  case h_32 => cases h
  all_goals
    rename_i hop
    obtain rfl := eq_ofNat_of_toNat_eq hop
  case h_16 | h_17 | h_18 =>
    dsimp only at h
    split_ifs at h
    all_goals exact fields_of_ifZero h (by simp_all [Instr.fields])
  all_goals exact fields_of_ifZero h (by simp_all [Instr.fields])

/-- The encoder and the decoder are inverse to each other (30_encoding.md R70, R75). -/
theorem decode_eq_ok_iff {w : BitVec 64} {i : Instr} : decode w = .ok i ↔ encode i = w := by
  constructor
  · intro h
    rw [encode, fields_of_decodeFields h, packFields_fieldsOf]
  · rintro rfl
    exact decode_encode i

/-- Settles O2: by the arm of each command, and since a word of 64 bits loses nothing by the cut to 64. -/
theorem encodedCommandDecodes : Obligations.EncodedCommandDecodes := by
  unfold Obligations.EncodedCommandDecodes
  intro i
  have hcut : BitVec.ofNat 64 ((encode i).toNat % 2 ^ 64) = encode i := by
    rw [Nat.mod_eq_of_lt (encode i).isLt, BitVec.ofNat_toNat, BitVec.setWidth_eq]
  exact ⟨decode_encode i, Machine.decodeTableWord_eq_some.mpr (hcut.symm ▸ decode_encode i)⟩

/-- Settles O3: by the decoder's arms. -/
theorem decodedWordReencodes : Obligations.DecodedWordReencodes := by
  unfold Obligations.DecodedWordReencodes
  exact fun w i => decode_eq_ok_iff.mp

/-- Settles O6: the encoder gives the seven words, and the decoder reads back what the encoder gives. -/
theorem workedEncodingsDecode : Obligations.WorkedEncodingsDecode := by
  unfold Obligations.WorkedEncodingsDecode
  simp only [decode_eq_ok_iff, and_self]
  decide

/-! ### The rows of the opcode table -/

/-- The fields of a word under a mask. -/
def Fields.and (f g : Fields) : Fields :=
  ⟨f.op &&& g.op, f.d &&& g.d, f.a &&& g.a, f.b &&& g.b, f.c &&& g.c, f.m &&& g.m, f.imm &&& g.imm⟩

theorem fieldsOf_and (v w : BitVec 64) : fieldsOf (v &&& w) = (fieldsOf v).and (fieldsOf w) := by
  simp only [fieldsOf, Fields.and, BitVec.extractLsb'_and]

theorem fieldsOf_inj {v w : BitVec 64} : fieldsOf v = fieldsOf w ↔ v = w :=
  ⟨fieldsOf_injective, congrArg fieldsOf⟩

@[simp] theorem and_ones_byte (x : BitVec 8) : x &&& 255#8 = x := BitVec.and_allOnes
@[simp] theorem and_ones_register (x : RegIdx) : x &&& 15#4 = x := BitVec.and_allOnes
@[simp] theorem and_ones_imm (x : BitVec 32) : x &&& 4294967295#32 = x := BitVec.and_allOnes

/-- The test of R75, field by field. -/
theorem OpcodeRow.selects_iff {r : OpcodeRow} {w : BitVec 64} :
    r.selects w = true ↔ (fieldsOf w).and (fieldsOf r.mask) = fieldsOf r.pattern := by
  rw [OpcodeRow.selects, beq_iff_eq, ← fieldsOf_and, fieldsOf_inj]

/-- Two rows that ask for different values of a bit select no common word. -/
theorem OpcodeRow.selects_eq_false {r q : OpcodeRow} {w : BitVec 64}
    (hdiffer : r.pattern &&& q.mask ≠ q.pattern &&& r.mask) (hr : r.selects w = true) : q.selects w = false := by
  refine Bool.eq_false_iff.mpr fun hq => hdiffer ?_
  rw [← beq_iff_eq.mp hr, ← beq_iff_eq.mp hq, BitVec.and_assoc, BitVec.and_assoc, BitVec.and_comm r.mask]

/-- Settles O5: any two rows ask for different values of a bit that both of them look at. -/
theorem opcodeRowsAreDisjoint : Obligations.OpcodeRowsAreDisjoint := by
  unfold Obligations.OpcodeRowsAreDisjoint
  have hrows : opcodeTable.Pairwise fun r q =>
      r.mnemonic ≠ q.mnemonic ∧ r.pattern &&& q.mask ≠ q.pattern &&& r.mask := by decide +kernel
  exact ⟨rfl, hrows.imp fun ⟨hname, hdiffer⟩ => ⟨hname, fun w => OpcodeRow.selects_eq_false hdiffer⟩⟩

/-- The row of a command is the one with its mnemonic, and it selects the command's word. -/
theorem exists_row_selects_encode (i : Instr) :
    ∃ row, opcodeTable.find? (·.mnemonic == i.mnemonic) = some row ∧ row.selects (encode i) = true := by
  cases i
  all_goals
    refine ⟨_, rfl, ?_⟩
    rw [OpcodeRow.selects_iff, encode, fieldsOf_packFields]
    simp [Instr.fields, Fields.and, fieldsOf]

/-- The decoder reads a word that a row selects as a command of that row: the row fixes the operation code, the
mode where it tells rows apart, and the fields that must be zero, which is all the arm of the decoder asks for. -/
theorem decode_of_selects {row : OpcodeRow} (hrow : row ∈ opcodeTable) {w : BitVec 64}
    (h : row.selects w = true) : ∃ i, decode w = .ok i ∧ i.mnemonic = row.mnemonic := by
  rw [OpcodeRow.selects_iff] at h
  rw [decode]
  generalize fieldsOf w = f at h ⊢
  fin_cases hrow
  all_goals
    simp [Fields.and, fieldsOf] at h
    simp [decodeFields, ifZero, h, Instr.mnemonic]

/-- A word that decodes is selected by the row with its command's mnemonic. -/
theorem exists_row_of_decode {w : BitVec 64} {i : Instr} (h : decode w = .ok i) :
    ∃ row ∈ opcodeTable, row.selects w = true ∧ row.mnemonic = i.mnemonic := by
  obtain rfl := decode_eq_ok_iff.mp h
  obtain ⟨row, hfind, hselects⟩ := exists_row_selects_encode i
  exact ⟨row, List.mem_of_find?_eq_some hfind, hselects, by simpa using List.find?_some hfind⟩

/-- Settles O4: from the command to its row by the word the encoder gives it, and from the row to the command
by the arm of the decoder. -/
theorem decoderAgreesWithOpcodeTable : Obligations.DecoderAgreesWithOpcodeTable := by
  unfold Obligations.DecoderAgreesWithOpcodeTable
  exact fun w => ⟨fun i => exists_row_of_decode, fun row hrow => decode_of_selects hrow⟩

end Sys2Proof
end

section
/-! The two ways of `F_ILLEGAL` (30_encoding.md R77, R78): a word that matches no row, and a command whose two
destinations are equal. -/

namespace Sys2Proof

/-! ### Two destinations that must differ -/

/-- R78's rule on the operands, in terms of the commands that break it. -/
theorem Instr.wellFormed_eq_false_iff (i : Instr) :
    i.wellFormed = false ↔
      (∃ d a imm, i = .shro d d a imm) ∨ (∃ d imm, i = .shripo d d imm) ∨ ∃ d a b, i = .divqr d d a b := by
  cases i
  case shro d c _ _ | shripo d c _ | divqr d c _ _ => simp [Instr.wellFormed, eq_comm (a := c)]
  all_goals simp [Instr.wellFormed]

end Sys2Proof

namespace Sys2Proof.Machine

theorem destinationsDiffer_self (d : RegIdx) : destinationsDiffer d d = .error (.trap .illegal) :=
  if_pos rfl

/-- The check of two destinations comes first, so that nothing after it matters when it fails
(60_exceptions.md R233). -/
theorem finish_destinationsDiffer_self (s : State) (d : RegIdx) (rest : Unit → Except Stop State) :
    finish s (destinationsDiffer d d >>= rest) = .next (s.faultEntry .illegal) := by
  rw [destinationsDiffer_self]
  rfl

/-- Settles O7: each of the three commands begins with the check, and the rule on operands names no other. -/
theorem twoDestinationsMustDiffer : Obligations.TwoDestinationsMustDiffer := by
  unfold Obligations.TwoDestinationsMustDiffer
  exact fun s => ⟨
    fun d _ _ => finish_destinationsDiffer_self s d _,
    fun d _ => finish_destinationsDiffer_self s d _,
    fun d _ _ => finish_destinationsDiffer_self s d _,
    Instr.wellFormed_eq_false_iff⟩

/-! ### A word that matches no row -/

/-- A busy block's turn enters the fault state when its latched word matches no row (30_encoding.md R77). -/
theorem coreTurn_of_noRow {s : State} (hbusy : s.status.busy = true)
    (hnone : ∀ row ∈ opcodeTable, row.selects s.cmdreg = false) : coreTurn s = .next (s.faultEntry .illegal) := by
  rw [coreTurn, if_pos hbusy, commandStep]
  cases hword : decode s.cmdreg with
  | ok i =>
    obtain ⟨row, hrow, hselects, -⟩ := exists_row_of_decode hword
    exact absurd hselects (Bool.eq_false_iff.mp (hnone row hrow))
  | error e => rfl

/-- Settles O9: by the CORE's turn, with or without a turn of the schedule used up. -/
theorem illegalWordFaults : Obligations.IllegalWordFaults := by
  unfold Obligations.IllegalWordFaults
  exact fun s hbusy hnone => ⟨
    fun hturns => (step_of_noTurns hturns).trans (coreTurn_of_noRow hbusy hnone),
    fun rest hturns => (step_of_coreFirst hturns).trans (coreTurn_of_noRow hbusy hnone)⟩

end Sys2Proof.Machine
end

section
/-! Reading a byte sequence as a number (40_construct_parse.md R92 to R95): the digits, the digit loop, and the
string with its whitespace and its sign. -/

namespace Sys2Proof

open Machine (withoutWhitespace whitespaceBytes)

/-! ### Digit values to a number -/

/-- The running total `z` continued by some digit values, most significant first. -/
def horner (base z : Nat) (values : List Nat) : Nat := values.foldl (fun total v => total * base + v) z

@[simp] theorem horner_nil (base z : Nat) : horner base z [] = z := rfl

@[simp] theorem horner_cons (base z v : Nat) (vs : List Nat) :
    horner base z (v :: vs) = horner base (z * base + v) vs := rfl

theorem horner_append (base z : Nat) (us vs : List Nat) :
    horner base z (us ++ vs) = horner base (horner base z us) vs := List.foldl_append

/-- From zero it is the positional value. -/
theorem horner_zero_eq_ofDigits (base : Nat) (vs : List Nat) : horner base 0 vs = Nat.ofDigits base vs.reverse := by
  rw [Nat.ofDigits_eq_foldr, List.foldr_reverse]
  simp only [horner, Nat.cast_id, Nat.mul_comm base, Nat.add_comm]

theorem bytesValue_eq_horner (bs : List Byte) : bytesValue bs = horner 256 0 (bs.map BitVec.toNat) :=
  List.foldl_map.symm

/-- The value of `n` digits as the sum of their weights. -/
theorem horner_map_range (base : Nat) (f : Nat → Nat) (n : Nat) :
    horner base 0 ((List.range n).map f) = ∑ k ∈ Finset.range n, f k * base ^ (n - 1 - k) := by
  induction n with
  | zero => rfl
  | succ n ih =>
    have hweight : ∀ k ∈ Finset.range n, f k * base ^ (n - k) = f k * base ^ (n - 1 - k) * base := by
      intro k hk
      rw [Finset.mem_range] at hk
      rw [mul_assoc, ← pow_succ, show n - 1 - k + 1 = n - k by omega]
    simp only [List.range_succ, List.map_append, horner_append, ih, List.map_singleton, horner_cons,
      horner_nil, Finset.sum_range_succ, Nat.add_sub_cancel, Nat.sub_self, pow_zero, mul_one,
      Finset.sum_congr rfl hweight, Finset.sum_mul]

/-! ### One digit (R95) -/

/-- Settles O26: the digits one by one, and a byte outside the three ranges passes every test. -/
theorem digitTable : Obligations.DigitTable := by
  unfold Obligations.DigitTable
  refine ⟨by decide, by decide, fun ch hch => ?_⟩
  unfold digitValue
  rw [if_neg (by omega), if_neg (by omega), if_neg (by omega)]

/-- No whitespace character is a digit. -/
theorem digitValue_of_mem_whitespace {ch : Byte} (hch : ch ∈ whitespaceBytes) : digitValue ch = none := by
  revert ch
  decide

/-! ### The digit loop (R93) -/

/-- A character that is no digit of the base. -/
def IsBadDigit (base : Nat) (ch : Byte) : Prop := ∀ v, digitValue ch = some v → base ≤ v

theorem isBadDigit_of_none {ch : Byte} (base : Nat) (hch : digitValue ch = none) : IsBadDigit base ch :=
  fun _ hv => nomatch hch.symm.trans hv

theorem parseDigits_cons {base v : Nat} {ch : Byte} (z : Nat) (s : List Byte) (hch : digitValue ch = some v)
    (hv : v < base) : parseDigits base z (ch :: s) = parseDigits base (z * base + v) s := by
  rw [parseDigits, hch]
  exact if_pos hv

theorem parseDigits_cons_of_isBadDigit {base : Nat} {ch : Byte} (z : Nat) (s : List Byte)
    (hch : IsBadDigit base ch) : parseDigits base z (ch :: s) = none := by
  rw [parseDigits]
  split
  next v hv => exact if_neg (Nat.not_lt.mpr (hch v hv))
  next => rfl

theorem isBadDigit_or_exists (base : Nat) (ch : Byte) :
    IsBadDigit base ch ∨ ∃ v < base, digitValue ch = some v := by
  cases hch : digitValue ch with
  | none => exact .inl (isBadDigit_of_none base hch)
  | some v =>
    by_cases hv : v < base
    · exact .inr ⟨v, hv, rfl⟩
    · exact .inl fun w hw => by cases hch.symm.trans hw; omega

/-- The loop gives the digits' value. -/
theorem parseDigits_of_values {base : Nat} {digits : List Byte} {values : List Nat} (z : Nat)
    (hvalues : digits.map digitValue = values.map some) (hlt : ∀ v ∈ values, v < base) :
    parseDigits base z digits = some (horner base z values) := by
  induction digits generalizing z values with
  | nil =>
    obtain rfl : values = [] := by simpa using hvalues.symm
    rfl
  | cons ch s ih =>
    cases values with
    | nil => exact nomatch hvalues
    | cons v vs =>
      obtain ⟨hch, hs⟩ := List.cons_eq_cons.mp hvalues
      obtain ⟨hv, hvs⟩ := List.forall_mem_cons.mp hlt
      rw [parseDigits_cons z s hch hv, ih _ hs hvs, horner_cons]

/-- The loop stops at a character that is no digit of the base. -/
theorem parseDigits_of_isBadDigit {base : Nat} {digits : List Byte} {ch : Byte} (z : Nat) (hmem : ch ∈ digits)
    (hch : IsBadDigit base ch) : parseDigits base z digits = none := by
  induction digits generalizing z with
  | nil => exact nomatch hmem
  | cons c s ih =>
    obtain hc | ⟨v, hv, hc⟩ := isBadDigit_or_exists base c
    · exact parseDigits_cons_of_isBadDigit z s hc
    · obtain rfl | hs := List.mem_cons.mp hmem
      · exact parseDigits_cons_of_isBadDigit z s hch
      · rw [parseDigits_cons z s hc hv, ih _ hs]

/-- The loop over two strings in a row. -/
theorem parseDigits_append {base z n : Nat} {s : List Byte} (t : List Byte) (hs : parseDigits base z s = some n) :
    parseDigits base z (s ++ t) = parseDigits base n t := by
  induction s generalizing z with
  | nil => cases hs; rfl
  | cons c s ih =>
    obtain hc | ⟨v, hv, hc⟩ := isBadDigit_or_exists base c
    · exact nomatch (parseDigits_cons_of_isBadDigit z s hc).symm.trans hs
    · rw [parseDigits_cons z s hc hv] at hs
      rw [List.cons_append, parseDigits_cons z _ hc hv, ih hs]

/-- Every character of a string that the loop takes is a digit. -/
theorem digitValue_ne_none_of_parseDigits {base z n : Nat} {s : List Byte} (hs : parseDigits base z s = some n)
    {ch : Byte} (hch : ch ∈ s) : digitValue ch ≠ none :=
  fun hnone => nomatch (parseDigits_of_isBadDigit z hch (isBadDigit_of_none base hnone)).symm.trans hs

/-! ### Whitespace and the sign (R93, R94) -/

theorem isWhitespace_eq (ch : Byte) : isWhitespace ch = decide (ch ∈ whitespaceBytes) := by
  simp [isWhitespace, whitespaceBytes, Bool.decide_or, Bool.or_assoc, beq_eq_decide]

/-- The parser strips the six characters, and no other. -/
theorem filter_not_isWhitespace (text : List Byte) :
    (text.filter fun ch => !isWhitespace ch) = withoutWhitespace text := by
  simp only [withoutWhitespace, isWhitespace_eq, decide_not]

theorem mem_withoutWhitespace {text : List Byte} {ch : Byte} :
    ch ∈ withoutWhitespace text ↔ ch ∈ text ∧ ch ∉ whitespaceBytes := by
  rw [withoutWhitespace, List.mem_filter, decide_eq_true_iff]

/-- What the parser takes a text for, its whitespace apart: one leading `-` or none, and the characters it
reads as digits. -/
def SplitsAs (text : List Byte) (negative : Bool) (digits : List Byte) : Prop :=
  withoutWhitespace text = withSign negative digits ∧ (negative = false → digits.head? ≠ some 0x2D)

theorem exists_splitsAs (text : List Byte) : ∃ negative digits, SplitsAs text negative digits := by
  by_cases hminus : (withoutWhitespace text).head? = some 0x2D
  · obtain ⟨digits, hdigits⟩ := List.head?_eq_some_iff.mp hminus
    exact ⟨true, digits, hdigits, nofun⟩
  · exact ⟨false, _, rfl, fun _ => hminus⟩

theorem SplitsAs.mem_digits {text digits : List Byte} {negative : Bool} (h : SplitsAs text negative digits)
    {ch : Byte} (hch : ch ∈ text) (hspace : ch ∉ whitespaceBytes) (hminus : ch ≠ 0x2D) : ch ∈ digits := by
  have hmem := mem_withoutWhitespace.mpr ⟨hch, hspace⟩
  rw [h.1] at hmem
  cases negative with
  | false => exact hmem
  | true => exact (List.mem_cons.mp hmem).resolve_left hminus

/-- R93 after its checks on the base and on `IOLEN`. -/
theorem parseText_of_splitsAs {text digits : List Byte} {negative : Bool} (base : Nat)
    (h : SplitsAs text negative digits) :
    parseText base text =
      if digits = [] then .error .noDigits
      else (parseDigits base 0 digits).elim (.error .badDigit)
        fun z => .ok (if negative then -(z : Int) else (z : Int)) := by
  obtain ⟨hstripped, hhead⟩ := h
  have hsign : ((withSign negative digits).head? == some 0x2D) = negative := by
    cases negative with
    | false => exact beq_false_of_ne (hhead rfl)
    | true => rfl
  have hdigits : (if negative = true then (withSign negative digits).tail else withSign negative digits) = digits := by
    cases negative <;> rfl
  simp only [parseText, filter_not_isWhitespace, hstripped, hsign, hdigits, List.isEmpty_iff]
  cases parseDigits base 0 digits <;> rfl

section
variable {text digits : List Byte} {negative : Bool}

theorem parseText_of_noDigits (base : Nat) (h : SplitsAs text negative []) :
    parseText base text = .error .noDigits := by
  rw [parseText_of_splitsAs base h, if_pos rfl]

theorem parseText_of_isBadDigit {base : Nat} {ch : Byte} (h : SplitsAs text negative digits) (hmem : ch ∈ digits)
    (hch : IsBadDigit base ch) : parseText base text = .error .badDigit := by
  rw [parseText_of_splitsAs base h, if_neg (List.ne_nil_of_mem hmem), parseDigits_of_isBadDigit 0 hmem hch]
  rfl

theorem parseText_of_parseDigits {base z : Nat} (h : SplitsAs text negative digits) (hne : digits ≠ [])
    (hz : parseDigits base 0 digits = some z) :
    parseText base text = .ok (if negative then -(z : Int) else (z : Int)) := by
  rw [parseText_of_splitsAs base h, if_neg hne, hz]
  rfl

end

/-- The parser sees a text without its whitespace. -/
theorem parseText_congr {text text' : List Byte} (base : Nat) (h : withoutWhitespace text = withoutWhitespace text') :
    parseText base text = parseText base text' := by
  simp only [parseText, filter_not_isWhitespace, h]

end Sys2Proof
end

section
/-! The commands that construct an Integer (40_construct_parse.md): LDI, LDB and LDS. -/

namespace Sys2Proof

/-! ### Integers that `int` gives -/

theorem normalize_eq_ofInt {ls : List Limb} {z : Int} (hmag : magnitude ls = z.natAbs) :
    normalize (decide (z < 0)) ls = Integer.ofInt z := by
  have hval : (normalize (decide (z < 0)) ls).val = z := by
    rw [Integer.val, mag_normalize, sign_normalize, hmag]
    by_cases hz : z < 0
    · rw [decide_eq_true hz, decide_eq_true (show z.natAbs ≠ 0 by omega), Bool.and_self, if_pos rfl]
      omega
    · rw [decide_eq_false hz, Bool.false_and, if_neg Bool.false_ne_true]
      omega
  rw [← Integer.ofInt_val (canonical_normalize _ ls), hval]

/-- Two limbs fit whatever the legal parameters (93_implementation_defined.md U9). -/
theorem Config.fits_ofInt_of_two_limbs {c : Config} (hc : c.wf = true) {z : Int} (hz : z.natAbs < 2 ^ (26 * 2)) :
    c.fits (Integer.ofInt z) = true := by
  have hcount : limbCount z.natAbs ≤ 2 := limbCount_le (by norm_num) hz
  simp only [Config.fits, Config.admits, Integer.length_ofInt]
  split
  next => rfl
  next m hm =>
    simp only [Config.wf, hm, Option.all_some, Bool.and_eq_true, decide_eq_true_eq] at hc ⊢
    exact hcount.trans hc.1

end Sys2Proof

namespace Sys2Proof.Machine

/-! ### The end of a register write -/

section
variable {s : State} {A : Integer}

theorem finish_writeR_of_fits (d : RegIdx) (h : s.cfg.fits A = true) :
    finish s (s.writeR d A) = .next (s.setR d A).complete := by
  rw [State.writeR_of_fits d h, finish_ok]

theorem finish_writeR_of_not_fits (d : RegIdx) (h : s.cfg.fits A = false) :
    finish s (s.writeR d A) = .next (s.faultEntry .capacity) := by
  rw [State.writeR, h, if_neg Bool.false_ne_true, finish_trap]

end

/-! ### LDI (R91) -/

theorem natAbs_toInt_lt_two_limbs (imm : BitVec 32) : imm.toInt.natAbs < 2 ^ (26 * 2) := by
  have hlow := BitVec.le_two_mul_toInt (x := imm)
  have hhigh := BitVec.two_mul_toInt_lt (x := imm)
  omega

/-- Settles O23: two limbs hold the magnitude, and every legal register holds two limbs. -/
theorem ldiLoadsItsImmediate : Obligations.LdiLoadsItsImmediate := by
  unfold Obligations.LdiLoadsItsImmediate
  intro d imm s hc
  have hlt := natAbs_toInt_lt_two_limbs imm
  have hmag : magnitude [BitVec.ofNat 26 (imm.toInt.natAbs % 2 ^ 26), BitVec.ofNat 26 (imm.toInt.natAbs / 2 ^ 26)] =
      imm.toInt.natAbs := by
    simp only [magnitude_cons, magnitude_nil, BitVec.toNat_ofNat]
    omega
  rw [exec, execLdi, signedImm, normalize_eq_ofInt hmag]
  exact finish_writeR_of_fits d (Config.fits_ofInt_of_two_limbs hc hlt)

/-! ### The content of the buffer (R90) -/

section
variable {s : State}

theorem loadContent_of_holds (h : s.bufferHolds s.iolen.toNat = true) : s.loadContent = .ok s.content := by
  rw [State.loadContent_eq, if_pos h, State.content]

theorem loadContent_of_not_holds (h : s.bufferHolds s.iolen.toNat = false) :
    s.loadContent = .error (.trap .capacity) := by
  rw [State.loadContent_eq, h, if_neg Bool.false_ne_true]

end

/-! ### LDB (R92) -/

/-- The number the content stands for, first byte most significant. -/
theorem bytesValue_content (s : State) :
    bytesValue s.content =
      ∑ k ∈ Finset.range s.iolen.toNat, (s.readByte k).toNat * 256 ^ (s.iolen.toNat - 1 - k) := by
  rw [bytesValue_eq_horner, State.content, List.map_map]
  exact horner_map_range 256 (fun k => (s.readByte k).toNat) _

theorem isEmpty_content (s : State) : s.content.isEmpty = decide (s.iolen.toNat = 0) := by
  rw [Bool.eq_iff_iff]
  simp [State.content]

/-- LDB on a buffer that holds some bytes. -/
theorem exec_ldb_of_bytes {s : State} (d : RegIdx) (hholds : s.bufferHolds s.iolen.toNat = true)
    (hpos : 0 < s.iolen.toNat) :
    exec (.ldb d) s = finish s (s.writeR d (Integer.ofInt (bytesValue s.content))) := by
  rw [exec, execLdb, loadContent_of_holds hholds]
  simp only [bind, Except.bind, isEmpty_content, decide_eq_true_iff, if_neg (Nat.ne_of_gt hpos)]

/-- Settles O24: by the buffer's checks, and by the weights of the bytes. -/
theorem ldbLoadsBigEndian : Obligations.LdbLoadsBigEndian := by
  unfold Obligations.LdbLoadsBigEndian
  intro d s
  dsimp only
  rw [← bytesValue_content]
  refine ⟨fun hholds => ?tooLong, fun hholds hzero => ?noByte, fun hholds hpos hfits => ?fits,
    fun hholds hpos hfits => ?capacity⟩
  case tooLong =>
    rw [exec, execLdb, loadContent_of_not_holds hholds]
    rfl
  case noByte =>
    rw [exec, execLdb, loadContent_of_holds hholds]
    simp only [bind, Except.bind, isEmpty_content, decide_eq_true hzero, if_true, finish_trap]
  case fits => exact (exec_ldb_of_bytes d hholds hpos).trans (finish_writeR_of_fits d hfits)
  case capacity => exact (exec_ldb_of_bytes d hholds hpos).trans (finish_writeR_of_not_fits d hfits)

/-! ### LDS (R93) -/

/-- A base field that LDS and STS take (30_encoding.md R74). -/
def IsLegalBase (m : BitVec 8) : Prop := m = 0 ∨ m = 10 ∨ m = 16

theorem numberBase_of_legal {m : BitVec 8} (hm : IsLegalBase m) : numberBase m = if m = 16 then 16 else 10 := by
  obtain rfl | rfl | rfl := hm <;> rfl

theorem parseBase_of_legal {m : BitVec 8} (hm : IsLegalBase m) :
    parseBase m = .ok (if m = 16 then 16 else 10) := by
  obtain rfl | rfl | rfl := hm <;> rfl

theorem formatBase_of_legal {m : BitVec 8} (hm : IsLegalBase m) :
    formatBase m = .ok (if m = 16 then 16 else 10) := by
  obtain rfl | rfl | rfl := hm <;> rfl

theorem parseBase_of_illegal {m : BitVec 8} (hm : ¬ IsLegalBase m) : parseBase m = .error (.trap .base) := by
  obtain ⟨h0, h10, h16⟩ : m ≠ 0 ∧ m ≠ 10 ∧ m ≠ 16 := by simpa [IsLegalBase] using hm
  have hten : m.toNat ≠ 10 := fun h => h10 (BitVec.eq_of_toNat_eq h)
  have hsixteen : m.toNat ≠ 16 := fun h => h16 (BitVec.eq_of_toNat_eq h)
  rw [parseBase, numberBase, if_neg h0]
  split
  next => rfl
  next => rw [if_pos ⟨hten, hsixteen⟩]

section
variable {s : State} {m : BitVec 8}

theorem exec_lds_of_illegalBase (d : RegIdx) (s : State) (hm : ¬ IsLegalBase m) :
    exec (.lds d m) s = .next (s.faultEntry .base) := by
  rw [exec, execLds, parseBase_of_illegal hm]
  rfl

theorem exec_lds_of_not_holds (d : RegIdx) (hm : IsLegalBase m) (hholds : s.bufferHolds s.iolen.toNat = false) :
    exec (.lds d m) s = .next (s.faultEntry .capacity) := by
  rw [exec, execLds, parseBase_of_legal hm, loadContent_of_not_holds hholds]
  rfl

theorem exec_lds_of_parseText_ok {z : Int} (d : RegIdx) (hm : IsLegalBase m)
    (hholds : s.bufferHolds s.iolen.toNat = true)
    (hz : parseText (if m = 16 then 16 else 10) s.content = .ok z) :
    exec (.lds d m) s = finish s (s.writeR d (Integer.ofInt z)) := by
  rw [exec, execLds, parseBase_of_legal hm, loadContent_of_holds hholds]
  simp only [bind, Except.bind, hz]

theorem exec_lds_of_parseText_error {c : FaultCode} (d : RegIdx) (hm : IsLegalBase m)
    (hholds : s.bufferHolds s.iolen.toNat = true)
    (hc : parseText (if m = 16 then 16 else 10) s.content = .error c) :
    exec (.lds d m) s = .next (s.faultEntry c) := by
  rw [exec, execLds, parseBase_of_legal hm, loadContent_of_holds hholds]
  simp only [bind, Except.bind, hc, finish_trap]

end

/-- Settles O25: by the checks in R93's order, and by what the parser makes of the content's digits. -/
theorem ldsLoadsTheParsedString : Obligations.LdsLoadsTheParsedString := by
  unfold Obligations.LdsLoadsTheParsedString
  refine fun d m s => ⟨fun ⟨h0, h10, h16⟩ => ?base, fun hm => ⟨fun hholds => ?tooLong,
    fun hholds negative digits hstripped hhead => ?content⟩⟩
  case base => exact exec_lds_of_illegalBase d s fun hm => hm.elim h0 fun hm => hm.elim h10 h16
  case tooLong => exact exec_lds_of_not_holds d hm hholds
  have hsplit : SplitsAs s.content negative digits := ⟨hstripped, hhead⟩
  refine ⟨fun hnil => ?noDigits, fun hne values hvalues hlt => ?value, fun ⟨ch, hmem, hbad⟩ => ?badDigit⟩
  case noDigits => exact exec_lds_of_parseText_error d hm hholds (parseText_of_noDigits _ (hnil ▸ hsplit))
  case badDigit => exact exec_lds_of_parseText_error d hm hholds (parseText_of_isBadDigit hsplit hmem hbad)
  case value =>
    have hparse := parseText_of_parseDigits hsplit hne (parseDigits_of_values 0 hvalues hlt)
    rw [horner_zero_eq_ofDigits] at hparse
    have hexec := exec_lds_of_parseText_ok d hm hholds hparse
    exact ⟨fun hfits => hexec.trans (finish_writeR_of_fits d hfits),
      fun hfits => hexec.trans (finish_writeR_of_not_fits d hfits)⟩

/-- Settles O27: the parser sees the content without its whitespace, and what it reads as digits holds every
other character but a leading `-`. -/
theorem whitespaceIsStripped : Obligations.WhitespaceIsStripped := by
  unfold Obligations.WhitespaceIsStripped
  refine ⟨fun d m s t hcfg hs ht hsame => ?same,
    fun d m s hm hholds ⟨ch, hmem, hspace, hminus, hnone⟩ => ?other⟩
  case other =>
    obtain ⟨negative, digits, hsplit⟩ := exists_splitsAs s.content
    exact exec_lds_of_parseText_error d hm hholds
      (parseText_of_isBadDigit hsplit (hsplit.mem_digits hmem hspace hminus) (isBadDigit_of_none _ hnone))
  case same =>
    by_cases hm : IsLegalBase m
    case neg => exact .inl ⟨_, exec_lds_of_illegalBase d s hm, exec_lds_of_illegalBase d t hm⟩
    have hparse := parseText_congr (if m = 16 then 16 else 10) hsame
    cases hcontent : parseText (if m = 16 then 16 else 10) s.content with
    | error c =>
      exact .inl ⟨c, exec_lds_of_parseText_error d hm hs hcontent,
        exec_lds_of_parseText_error d hm ht (hparse.symm.trans hcontent)⟩
    | ok z =>
      have hexecS := exec_lds_of_parseText_ok d hm hs hcontent
      have hexecT := exec_lds_of_parseText_ok d hm ht (hparse.symm.trans hcontent)
      cases hfits : s.cfg.fits (Integer.ofInt z) with
      | false =>
        exact .inl ⟨_, hexecS.trans (finish_writeR_of_not_fits d hfits),
          hexecT.trans (finish_writeR_of_not_fits d (hcfg ▸ hfits))⟩
      | true =>
        exact .inr ⟨_, hexecS.trans (finish_writeR_of_fits d hfits),
          hexecT.trans (finish_writeR_of_fits d (hcfg ▸ hfits))⟩

end Sys2Proof.Machine
end

section
/-! The strings STS writes (44_format.md R182, R183) and what the parser reads in them: their chunks are the
magnitude's digits in base 2^24 or 1,000,000, and a chunk's characters are its six digits in base 16 or 10. -/

namespace Sys2Proof

open Machine (withoutWhitespace)

/-! ### Short division (42_division.md R154) -/

/-- The scan divides the magnitude: the remainder of the limbs above is below the divisor, so each quotient fits
its limb. -/
theorem shortDivScan_eq {dv : Nat} (hdv : 0 < dv) (ls : List Limb) :
    magnitude (shortDivScan dv ls).1 = magnitude ls / dv ∧ (shortDivScan dv ls).2 = magnitude ls % dv := by
  induction ls with
  | nil => simp [shortDivScan]
  | cons l ls ih =>
    obtain ⟨hquotient, hremainder⟩ := ih
    have hl := l.isLt
    have hr := Nat.mod_lt (magnitude ls) hdv
    have hdigit : (magnitude ls % dv * 2 ^ 26 + l.toNat) / dv < 2 ^ 26 := Nat.div_lt_of_lt_mul (by omega)
    have hsplit : l.toNat + 2 ^ 26 * magnitude ls =
        magnitude ls % dv * 2 ^ 26 + l.toNat + dv * (2 ^ 26 * (magnitude ls / dv)) := by
      have hdivmod := Nat.mod_add_div (magnitude ls) dv
      rw [Nat.mul_left_comm]
      omega
    simp only [shortDivScan, magnitude_cons, hquotient, hremainder, BitVec.toNat_ofNat, hsplit,
      Nat.add_mul_div_left _ _ hdv, Nat.add_mul_mod_self_left, Nat.mod_eq_of_lt hdigit, and_self]

theorem mag_shortDiv {dv : Nat} (hdv : 0 < dv) (A : List Limb) : (shortDiv A dv).1.mag = magnitude A / dv :=
  (mag_normalize _ _).trans (shortDivScan_eq hdv A).1

theorem shortDiv_remainder {dv : Nat} (hdv : 0 < dv) (A : List Limb) : (shortDiv A dv).2 = magnitude A % dv :=
  (shortDivScan_eq hdv A).2

/-! ### The decimal chunks (R183) -/

/-- The chunk loop puts the digits of the value before the chunks it has. -/
theorem horner_decimalChunks {fuel : Nat} {C : Integer} (hfuel : C.mag ≤ fuel) (chunks : List Nat) :
    horner (10 ^ 6) 0 (decimalChunks fuel C chunks) = horner (10 ^ 6) C.mag chunks := by
  induction fuel generalizing C chunks with
  | zero => rw [decimalChunks, Nat.le_zero.mp hfuel]
  | succ fuel ih =>
    rw [decimalChunks]
    split
    next hzero => rw [beq_iff_eq.mp hzero]
    next hzero =>
      have hne : magnitude C.limbs ≠ 0 := by simpa [Integer.isZero, Integer.mag] using hzero
      have hmag := mag_shortDiv (dv := 1000000) (by norm_num) C.limbs
      rw [Integer.mag] at hfuel
      rw [ih (by omega), horner_cons, hmag, shortDiv_remainder (by norm_num)]
      exact congrArg (horner _ · _) (Nat.div_add_mod' _ _)

theorem decimalChunks_lt (fuel : Nat) (C : Integer) {chunks : List Nat} (h : ∀ v ∈ chunks, v < 10 ^ 6) :
    ∀ v ∈ decimalChunks fuel C chunks, v < 10 ^ 6 := by
  induction fuel generalizing C chunks with
  | zero => exact h
  | succ fuel ih =>
    rw [decimalChunks]
    split
    next => exact h
    next =>
      refine ih _ (List.forall_mem_cons.mpr ⟨?_, h⟩)
      rw [shortDiv_remainder (by norm_num)]
      exact Nat.mod_lt _ (by norm_num)

/-! ### The hexadecimal groups (R182) -/

theorem magnitude_drop (A : List Limb) (i : Nat) :
    magnitude (A.drop i) = (A.getD i 0).toNat + 2 ^ 26 * magnitude (A.drop (i + 1)) := by
  rw [magnitude_eq_headD_add_tail, List.tail_drop, List.headD_eq_head?_getD, List.head?_drop,
    List.getD_eq_getElem?_getD]

/-- The limbs from limb `i` on are the magnitude without its `26 i` low bits. -/
theorem magnitude_div_pow (A : List Limb) (i : Nat) : magnitude A / 2 ^ (26 * i) = magnitude (A.drop i) := by
  induction i with
  | zero => simp
  | succ i ih =>
    have hlimb := (A.getD i 0).isLt
    rw [Nat.mul_succ, pow_add, ← Nat.div_div_eq_div_mul, ih, magnitude_drop A i]
    omega

/-- A group is a base-2^24 digit of the magnitude: the two limbs it looks at hold all its bits. -/
theorem hexGroup_eq (A : List Limb) (j : Nat) : hexGroup A j = magnitude A / (2 ^ 24) ^ j % 2 ^ 24 := by
  have hoff : 24 * j % 26 < 26 := Nat.mod_lt _ (by norm_num)
  have hlimb : 2 ^ 26 = 2 ^ (24 * j % 26) * 2 ^ (26 - 24 * j % 26) := by rw [← pow_add]; congr 1; omega
  have hbits : (2 ^ 24) ^ j = 2 ^ (26 * (24 * j / 26)) * 2 ^ (24 * j % 26) := by
    rw [← pow_mul, ← pow_add, Nat.div_add_mod]
  have habove : ∀ a b M r : Nat, a + r * (b + 2 ^ 26 * M) = a + b * r + 2 ^ 24 * (4 * r * M) :=
    fun a b M r => by ring
  rw [hexGroup, hbits, ← Nat.div_div_eq_div_mul, magnitude_div_pow, magnitude_drop, magnitude_drop]
  conv_rhs => rw [hlimb, mul_assoc, Nat.add_mul_div_left _ _ (by positivity), ← hlimb, habove,
    Nat.add_mul_mod_self_left]

/-- The low `k` digits of a number have its value modulo `b ^ k`. -/
theorem ofDigits_map_range (b n k : Nat) :
    Nat.ofDigits b ((List.range k).map fun j => n / b ^ j % b) = n % b ^ k := by
  induction k with
  | zero => simp [Nat.mod_one]
  | succ k ih =>
    rw [List.range_succ, List.map_append, Nat.ofDigits_append, ih, List.map_singleton, Nat.ofDigits_singleton,
      List.length_map, List.length_range, pow_succ, Nat.mod_mul]

/-- Groups enough for every bit give the magnitude. -/
theorem horner_hexGroups {A : List Limb} {n : Nat} (hn : 26 * A.length ≤ 24 * n) :
    horner (2 ^ 24) 0 ((List.range n).reverse.map (hexGroup A)) = magnitude A := by
  have hlt : magnitude A < (2 ^ 24) ^ n :=
    calc magnitude A
      _ < 2 ^ (26 * A.length) := magnitude_lt A
      _ ≤ 2 ^ (24 * n) := Nat.pow_le_pow_right (by norm_num) hn
      _ = (2 ^ 24) ^ n := pow_mul _ _ _
  rw [horner_zero_eq_ofDigits, ← List.map_reverse, List.reverse_reverse, funext (hexGroup_eq A),
    ofDigits_map_range, Nat.mod_eq_of_lt hlt]

theorem horner_dropWhile_zero (base : Nat) (vs : List Nat) :
    horner base 0 (vs.dropWhile (· == 0)) = horner base 0 vs := by
  induction vs with
  | nil => rfl
  | cons v vs ih =>
    rw [List.dropWhile_cons]
    split
    next hv => rw [ih, horner_cons, beq_iff_eq.mp hv, Nat.zero_mul]
    next => rfl

/-! ### Digit strings read back -/

theorem digitValue_digitChar : ∀ v < 16, digitValue (digitChar v) = some v := by decide

section
variable {base : Nat}

/-- Six digits, or any number of them, give the number they are cut from. -/
theorem parseDigits_paddedDigits (hpos : 0 < base) (hbase : base ≤ 16) (z k n : Nat) :
    parseDigits base z (paddedDigits base k n) = some (z * base ^ k + n % base ^ k) := by
  induction k generalizing n with
  | zero => simp [paddedDigits, parseDigits, Nat.mod_one]
  | succ k ih =>
    have hlt := Nat.mod_lt n hpos
    rw [paddedDigits, parseDigits_append _ (ih (n / base)),
      parseDigits_cons _ _ (digitValue_digitChar _ (hlt.trans_le hbase)) hlt, parseDigits, pow_succ',
      Nat.mod_mul]
    congr 1
    ring

/-- Leading zeros add nothing. -/
theorem parseDigits_stripZeros (hpos : 0 < base) (s : List Byte) :
    parseDigits base 0 (stripZeros s) = parseDigits base 0 s := by
  induction s with
  | nil => rfl
  | cons ch s ih =>
    rw [stripZeros, List.dropWhile_cons]
    split
    next hch =>
      obtain rfl := beq_iff_eq.mp hch
      rw [parseDigits_cons 0 s (v := 0) (by decide) hpos, Nat.zero_mul]
      exact ih
    next => rfl

/-- Zero-padded chunks continue the running total as base-`base ^ 6` digits. -/
theorem parseDigits_paddedChunks (hpos : 0 < base) (hbase : base ≤ 16) (z : Nat) {chunks : List Nat}
    (hlt : ∀ v ∈ chunks, v < base ^ 6) :
    parseDigits base z (chunks.map (paddedDigits base 6)).flatten = some (horner (base ^ 6) z chunks) := by
  induction chunks generalizing z with
  | nil => rfl
  | cons v vs ih =>
    obtain ⟨hv, hvs⟩ := List.forall_mem_cons.mp hlt
    rw [List.map_cons, List.flatten_cons, parseDigits_append _ (parseDigits_paddedDigits hpos hbase z 6 v),
      Nat.mod_eq_of_lt hv, ih _ hvs, horner_cons]

theorem parseDigits_joinChunks (hpos : 0 < base) (hbase : base ≤ 16) {chunks : List Nat}
    (hlt : ∀ v ∈ chunks, v < base ^ 6) :
    parseDigits base 0 (joinChunks base chunks) = some (horner (base ^ 6) 0 chunks) := by
  cases chunks with
  | nil => rfl
  | cons top rest =>
    obtain ⟨htop, hrest⟩ := List.forall_mem_cons.mp hlt
    have hfirst : parseDigits base 0 (stripZeros (paddedDigits base 6 top)) = some (0 * base ^ 6 + top) := by
      rw [parseDigits_stripZeros hpos, parseDigits_paddedDigits hpos hbase, Nat.mod_eq_of_lt htop]
    rw [joinChunks, parseDigits_append _ hfirst, parseDigits_paddedChunks hpos hbase _ hrest, horner_cons]

/-- A string of digits after an optional `-` holds no whitespace, and no second `-`. -/
theorem splitsAs_withSign {z n : Nat} {digits : List Byte} (sign : Bool)
    (hdigits : parseDigits base z digits = some n) : SplitsAs (withSign sign digits) sign digits := by
  have hchars : ∀ ch ∈ digits, digitValue ch ≠ none := fun ch hch => digitValue_ne_none_of_parseDigits hdigits hch
  have hkept : withoutWhitespace digits = digits := by
    rw [withoutWhitespace, List.filter_eq_self]
    exact fun ch hch => decide_eq_true fun hspace => hchars ch hch (digitValue_of_mem_whitespace hspace)
  refine ⟨?_, fun _ hminus => hchars _ (List.mem_of_head? hminus) (by decide)⟩
  cases sign with
  | false => exact hkept
  | true => exact congrArg (0x2D :: ·) hkept

/-- The parser reads a signed string of digits as its value. -/
theorem parseText_withSign {n : Nat} {digits : List Byte} (sign : Bool)
    (hdigits : parseDigits base 0 digits = some n) (hn : n ≠ 0) :
    parseText base (withSign sign digits) = .ok (if sign then -(n : Int) else (n : Int)) := by
  have hne : digits ≠ [] := by
    rintro rfl
    exact hn (Option.some.inj hdigits).symm
  exact parseText_of_parseDigits (splitsAs_withSign sign hdigits) hne hdigits

end

/-! ### The strings of an Integer -/

theorem Integer.val_of_isZero {A : Integer} (hzero : A.isZero = true) : A.val = 0 := by
  rw [← Int.natAbs_eq_zero, Integer.natAbs_val, beq_iff_eq.mp hzero]

theorem Integer.mag_ne_zero_of_not_isZero {A : Integer} (hzero : ¬ A.isZero = true) : A.mag ≠ 0 :=
  fun hmag => hzero (beq_iff_eq.mpr hmag)

/-- The hexadecimal string reads back (R182). -/
theorem parseText_hexText (A : Integer) : parseText 16 (hexText A) = .ok A.val := by
  unfold hexText
  split
  next hzero => rw [Integer.val_of_isZero hzero]; rfl
  next hzero =>
    have hlt : ∀ v ∈ ((List.range ((26 * A.length + 23) / 24)).reverse.map (hexGroup A.limbs)).dropWhile (· == 0),
        v < 16 ^ 6 := by
      intro v hv
      obtain ⟨j, -, rfl⟩ := List.mem_map.mp ((List.dropWhile_sublist _).mem hv)
      rw [hexGroup_eq]
      exact Nat.mod_lt _ (by norm_num)
    have hvalue := parseDigits_joinChunks (by norm_num) le_rfl hlt
    rw [show 16 ^ 6 = 2 ^ 24 by norm_num, horner_dropWhile_zero,
      horner_hexGroups (by rw [Integer.length]; omega)] at hvalue
    exact parseText_withSign A.sign hvalue (Integer.mag_ne_zero_of_not_isZero hzero)

/-- The decimal string reads back (R183). -/
theorem parseText_decText (A : Integer) : parseText 10 (decText A) = .ok A.val := by
  unfold decText
  split
  next hzero => rw [Integer.val_of_isZero hzero]; rfl
  next hzero =>
    have habs : A.abs.mag = A.mag := by rw [Integer.abs, Integer.mag_ofInt, Int.natAbs_natCast]
    have hvalue := parseDigits_joinChunks (base := 10) (by norm_num) (by norm_num)
      (decimalChunks_lt A.mag A.abs (chunks := []) nofun)
    rw [horner_decimalChunks habs.le, horner_nil, habs] at hvalue
    exact parseText_withSign A.sign hvalue (Integer.mag_ne_zero_of_not_isZero hzero)

end Sys2Proof

namespace Sys2Proof.Machine

/-! ### STS, then LDS (40_construct_parse.md R99) -/

theorem parseText_stsText (A : Integer) {m : BitVec 8} (hm : IsLegalBase m) :
    parseText (if m = 16 then 16 else 10) (stsText A m) = .ok A.val := by
  rw [stsText, numberBase_of_legal hm]
  by_cases h16 : m = 16
  · rw [if_pos h16, if_pos rfl]
    exact parseText_hexText A
  · rw [if_neg h16, if_neg (by norm_num)]
    exact parseText_decText A

/-- STS on a buffer that holds its text. -/
theorem exec_sts_of_holds {s : State} {a : RegIdx} {m : BitVec 8} {A : Integer} (hA : s.rReg a = some A)
    (hm : IsLegalBase m) (hholds : s.bufferHolds (stsText A m).length = true) :
    exec (.sts a m) s = .next (s.withText (stsText A m)).complete := by
  rw [stsText, numberBase_of_legal hm] at hholds ⊢
  rw [exec, execSts, State.readR_of_valid hA, formatBase_of_legal hm]
  simp only [bind, Except.bind, State.storeText_eq, hholds, if_true, finish_ok, State.withText]

/-- The length of a string as `IOLEN` holds it (log 13). -/
theorem toNat_lengthWord {L : Nat} (hL : L < 2 ^ 32) : (lengthWord L).toNat = L := by
  rw [lengthWord, if_pos hL, BitVec.toNat_ofNat, Nat.mod_eq_of_lt hL]

theorem toNat_iolen_withText (s : State) {text : List Byte} (hlen : text.length < 2 ^ 32) :
    (s.withText text).complete.iolen.toNat = text.length := by
  rw [State.complete_iolen, State.withText, State.setLength_iolen, toNat_lengthWord hlen]

/-- A stored text is the content of the buffer. -/
theorem content_withText (s : State) {text : List Byte} (hlen : text.length < 2 ^ 32) :
    (s.withText text).complete.content = text := by
  refine List.ext_getElem ?_ fun k _ hk => ?_
  · rw [State.content, List.length_map, List.length_range, toNat_iolen_withText s hlen]
  · simp only [State.content, List.getElem_map, List.getElem_range, State.readByte_complete,
      s.readByte_withText hk]

theorem bufferHolds_withText (s : State) (text : List Byte) (n : Nat) :
    (s.withText text).complete.bufferHolds n = s.bufferHolds n := by
  rw [State.withText_frame]
  rfl

theorem cfg_withText (s : State) (text : List Byte) : (s.withText text).complete.cfg = s.cfg := by
  rw [State.withText_frame]
  rfl

/-- Settles O31: the parser reads the stored text as the value, and the Integer of that value is the one that
was formatted. -/
theorem formatThenParseRoundTrip : Obligations.FormatThenParseRoundTrip := by
  unfold Obligations.FormatThenParseRoundTrip
  intro a d m s A hA hheld hm hholds hlen
  simp only [Config.holds, Bool.and_eq_true] at hheld
  obtain ⟨hcanonical, hfits⟩ := hheld
  refine ⟨_, exec_sts_of_holds hA hm hholds, ?_⟩
  have hloaded : (s.withText (stsText A m)).complete.bufferHolds
      (s.withText (stsText A m)).complete.iolen.toNat = true := by
    rwa [toNat_iolen_withText s hlen, bufferHolds_withText]
  have hparse := parseText_stsText A hm
  rw [← content_withText s hlen] at hparse
  rw [exec_lds_of_parseText_ok d hm hloaded hparse, Integer.ofInt_val hcanonical]
  exact finish_writeR_of_fits d (by rwa [cfg_withText])

end Sys2Proof.Machine
end

section
/-! The two-stage shifts of 41_arithmetic.md R115 and R116 on magnitudes: whole limbs, then fewer than 26 bits. -/

namespace Sys2Proof

/-! ### Whole limbs -/

theorem magnitude_append (A B : List Limb) :
    magnitude (A ++ B) = magnitude A + 2 ^ (26 * A.length) * magnitude B := by
  simp only [magnitude_eq_ofDigits, List.map_append, Nat.ofDigits_append, List.length_map, pow_mul]

theorem magnitude_replicate_zero (k : Nat) : magnitude (List.replicate k 0) = 0 := by
  induction k with
  | zero => rfl
  | succ k ih => rw [List.replicate_succ, magnitude_cons, ih]; rfl

/-- The limbs below limb `i` are the low `26 i` bits of the magnitude. -/
theorem magnitude_take (A : List Limb) (i : Nat) : magnitude (A.take i) = magnitude A % 2 ^ (26 * i) := by
  obtain hi | hi := le_total i A.length
  · have hsplit := magnitude_append (A.take i) (A.drop i)
    have hlow := magnitude_lt (A.take i)
    rw [List.length_take_of_le hi] at hlow hsplit
    rw [List.take_append_drop] at hsplit
    rw [hsplit, Nat.add_mul_mod_self_left, Nat.mod_eq_of_lt hlow]
  · have hA : magnitude A < 2 ^ (26 * i) :=
      (magnitude_lt A).trans_le (Nat.pow_le_pow_right (by norm_num) (by omega))
    rw [List.take_of_length_le hi, Nat.mod_eq_of_lt hA]

/-- A shift of at most one limb splits the weight of a limb. -/
theorem limb_weight_split {r : Nat} (hr : r ≤ 26) : 2 ^ 26 = 2 ^ r * 2 ^ (26 - r) := by
  rw [← pow_add, Nat.add_sub_cancel' hr]

theorem pow_limbs_mul_pow_bits (n : Nat) : 2 ^ (26 * (n / 26)) * 2 ^ (n % 26) = 2 ^ n := by
  rw [← pow_add, Nat.div_add_mod]

/-! ### The left shift (R115) -/

/-- The bits pushed out of a limb always fit the limb above. -/
theorem magnitude_shlBits {r : Nat} (hr : r ≤ 26) (ls : List Limb) {carry : Nat} (hcarry : carry < 2 ^ 26) :
    magnitude (shlBits r ls carry) = magnitude ls * 2 ^ r + carry := by
  induction ls generalizing carry with
  | nil =>
    rw [shlBits]
    split
    next hzero => simp [hzero]
    next => simpa using hcarry
  | cons l ls ih =>
    have hpow : 2 ^ r ≤ 2 ^ 26 := Nat.pow_le_pow_right (by norm_num) hr
    have hlimb : l.toNat * 2 ^ r ≤ (2 ^ 26 - 1) * 2 ^ 26 := Nat.mul_le_mul (by omega) hpow
    have hout : (l.toNat * 2 ^ r + carry) / 2 ^ 26 < 2 ^ 26 := by omega
    rw [shlBits, magnitude_cons, magnitude_cons, BitVec.toNat_ofNat, ih hout, Nat.add_mul, Nat.mul_assoc]
    omega

theorem magnitude_shlMag (A : List Limb) (n : Nat) : magnitude (shlMag A n) = magnitude A * 2 ^ n := by
  have hbits : magnitude (if n % 26 = 0 then A else shlBits (n % 26) A 0) = magnitude A * 2 ^ (n % 26) := by
    split
    next hzero => rw [hzero, pow_zero, Nat.mul_one]
    next => exact magnitude_shlBits (by omega) A (by norm_num)
  rw [shlMag, magnitude_append, magnitude_replicate_zero, List.length_replicate, hbits, Nat.zero_add,
    Nat.mul_left_comm, pow_limbs_mul_pow_bits]

/-! ### The right shift (R116) -/

/-- Each limb keeps its high bits and takes the low bits of the limbs above, which fill it exactly. -/
theorem shrBits_eq {r : Nat} (hr : r ≤ 26) (ls : List Limb) :
    magnitude (shrBits r ls).1 = magnitude ls / 2 ^ r ∧ (shrBits r ls).2 = magnitude ls % 2 ^ r := by
  induction ls with
  | nil => simp [shrBits]
  | cons l ls ih =>
    obtain ⟨hkept, hout⟩ := ih
    have hweight := limb_weight_split hr
    have hhigh : l.toNat / 2 ^ r < 2 ^ (26 - r) := Nat.div_lt_of_lt_mul (hweight ▸ l.isLt)
    have hlow : magnitude ls % 2 ^ r + 1 ≤ 2 ^ r := Nat.mod_lt _ (Nat.two_pow_pos r)
    have hlimb : l.toNat / 2 ^ r + magnitude ls % 2 ^ r * 2 ^ (26 - r) < 2 ^ 26 :=
      calc l.toNat / 2 ^ r + magnitude ls % 2 ^ r * 2 ^ (26 - r)
        _ < (magnitude ls % 2 ^ r + 1) * 2 ^ (26 - r) := by rw [Nat.succ_mul]; omega
        _ ≤ 2 ^ 26 := hweight ▸ Nat.mul_le_mul_right _ hlow
    have hvalue : l.toNat + 2 ^ 26 * magnitude ls = l.toNat + 2 ^ r * (2 ^ (26 - r) * magnitude ls) := by
      rw [hweight, Nat.mul_assoc]
    have hdivmod := Nat.mod_add_div (magnitude ls) (2 ^ r)
    rw [shrBits, magnitude_cons, magnitude_cons, BitVec.toNat_ofNat, hkept, hout, Nat.mod_eq_of_lt hlimb, hvalue]
    refine ⟨?_, (Nat.add_mul_mod_self_left _ _ _).symm⟩
    rw [Nat.add_mul_div_left _ _ (Nat.two_pow_pos r), hweight]
    linear_combination 2 ^ (26 - r) * hdivmod

theorem magnitude_shrKept (A : List Limb) (n : Nat) : magnitude (shrKept A n) = magnitude A / 2 ^ n := by
  have hlimbs : magnitude (if n / 26 < A.length then A.drop (n / 26) else [0]) = magnitude A / 2 ^ (26 * (n / 26)) := by
    rw [magnitude_div_pow]
    split
    next => rfl
    next hall => rw [List.drop_of_length_le (by omega)]; rfl
  rw [shrKept, ← pow_limbs_mul_pow_bits n, ← Nat.div_div_eq_div_mul, ← hlimbs]
  split
  next hzero => rw [hzero, pow_zero, Nat.div_one]
  next => exact (shrBits_eq (by omega) _).1

/-- The masked limb of R116 is the low `r` bits of what is left of the magnitude above limb `i`. -/
theorem toNat_masked_limb (A : List Limb) (i : Nat) {r : Nat} (hr : r ≤ 26) :
    (A.getD i 0 &&& BitVec.ofNat 26 (2 ^ r - 1)).toNat = magnitude A / 2 ^ (26 * i) % 2 ^ r := by
  have hmask : 2 ^ r - 1 < 2 ^ 26 :=
    (Nat.sub_lt (Nat.two_pow_pos r) one_pos).trans_le (Nat.pow_le_pow_right (by norm_num) hr)
  rw [magnitude_div_pow, magnitude_drop, limb_weight_split hr, Nat.mul_assoc, Nat.add_mul_mod_self_left,
    BitVec.toNat_and, BitVec.toNat_ofNat, Nat.mod_eq_of_lt hmask, Nat.and_two_pow_sub_one_eq_mod]

theorem magnitude_shrOut (A : List Limb) (n : Nat) : magnitude (shrOut A n) = magnitude A % 2 ^ n := by
  have hbits : magnitude (A.take (n / 26) ++
      if n % 26 ≠ 0 ∧ n / 26 < A.length then [A.getD (n / 26) 0 &&& BitVec.ofNat 26 (2 ^ (n % 26) - 1)] else []) =
      magnitude A % 2 ^ n := by
    rw [← pow_limbs_mul_pow_bits n, Nat.mod_mul, magnitude_append, magnitude_take]
    split
    next hpart =>
      rw [List.length_take_of_le hpart.2.le, magnitude_cons, toNat_masked_limb A _ (by omega), magnitude_nil,
        Nat.mul_zero, Nat.add_zero]
    next hnone =>
      obtain hzero | hall : n % 26 = 0 ∨ A.length ≤ n / 26 := by omega
      · rw [hzero, pow_zero, Nat.mod_one, magnitude_nil, Nat.mul_zero, Nat.mul_zero]
      · rw [magnitude_div_pow, List.drop_of_length_le hall, magnitude_nil, Nat.zero_mod, Nat.mul_zero, Nat.mul_zero]
  rw [shrOut, ← hbits]
  split
  next hempty => rw [hempty]; rfl
  next hcons => rw [hcons]

/-- Settles O42: a whole-limb shift appends or drops limbs, and the sub-limb stages go limb by limb. -/
theorem shiftDatapathIsExact : Obligations.ShiftDatapathIsExact := by
  unfold Obligations.ShiftDatapathIsExact
  exact fun A n => ⟨magnitude_shlMag A n, magnitude_shrKept A n, magnitude_shrOut A n⟩

end Sys2Proof
end

section
/-! The values of the Integer operations of 41_arithmetic.md R119 to R133, and the length of a shifted value. -/

namespace Sys2Proof

/-- A canonical Integer is the one `int` gives for the value it is known to have. -/
theorem Integer.eq_ofInt {A : Integer} {z : Int} (hA : A.canonical = true) (hval : A.val = z) :
    A = Integer.ofInt z :=
  hval ▸ (Integer.ofInt_val hA).symm

theorem val_normalize (sign : Bool) (ls : List Limb) :
    (normalize sign ls).val = if sign then -(magnitude ls : Int) else (magnitude ls : Int) := by
  rw [Integer.val, mag_normalize, sign_normalize]
  by_cases hzero : magnitude ls = 0 <;> cases sign <;> simp [hzero]

theorem Integer.val_eq (A : Integer) :
    A.val = if A.sign then -(magnitude A.limbs : Int) else (magnitude A.limbs : Int) := rfl

/-! ### Addition, subtraction, negation -/

theorem Integer.val_neg (A : Integer) : A.neg.val = -A.val := by
  rw [Integer.neg, val_normalize, A.val_eq]
  cases A.sign <;> simp

/-- Operands of equal signs: the magnitudes add up. -/
theorem Integer.val_add_of_sign_eq {A B : Integer} (hsign : A.sign = B.sign) : (A.add B).val = A.val + B.val := by
  rw [Integer.add, if_pos hsign, val_normalize, magnitude_addMag, A.val_eq, B.val_eq, ← hsign]
  split <;> omega

/-- Operands of different signs: the smaller magnitude is taken from the larger, whose sign stands. -/
theorem Integer.val_add_of_sign_ne {A B : Integer} (hsign : A.sign ≠ B.sign) : (A.add B).val = A.val + B.val := by
  have hB : B.sign = !A.sign := Bool.eq_not_of_ne (Ne.symm hsign)
  rw [Integer.add, if_neg hsign, A.val_eq, B.val_eq, hB]
  split
  next hcmp =>
    have hmag : magnitude A.limbs = magnitude B.limbs := Nat.compare_eq_eq.mp hcmp
    rw [Integer.val_ofInt, hmag]
    cases A.sign <;> simp
  next hcmp =>
    have hmag : magnitude B.limbs < magnitude A.limbs := Nat.compare_eq_gt.mp hcmp
    rw [val_normalize, magnitude_subMag hmag.le]
    cases A.sign <;> simp <;> omega
  next hcmp =>
    have hmag : magnitude A.limbs < magnitude B.limbs := Nat.compare_eq_lt.mp hcmp
    rw [val_normalize, magnitude_subMag hmag.le]
    cases A.sign <;> simp <;> omega

theorem Integer.val_add (A B : Integer) : (A.add B).val = A.val + B.val := by
  by_cases hsign : A.sign = B.sign
  · exact Integer.val_add_of_sign_eq hsign
  · exact Integer.val_add_of_sign_ne hsign

/-- Magnitudes are subtracted for two operands that are not negative; any others add the negation (R121). -/
theorem Integer.val_sub (A B : Integer) : (A.sub B).val = A.val - B.val := by
  unfold Integer.sub
  split
  next => rw [Integer.val_add, Integer.val_neg, sub_eq_add_neg]
  next hsigns =>
    simp only [ne_eq, not_or, not_not, Bool.not_eq_true] at hsigns
    obtain ⟨hsame, hA⟩ := hsigns
    have hB : B.sign = false := hsame ▸ hA
    rw [A.val_eq, B.val_eq, hA, hB, if_neg Bool.false_ne_true, if_neg Bool.false_ne_true]
    split
    next hcmp =>
      have hmag : magnitude A.limbs < magnitude B.limbs := Nat.compare_eq_lt.mp hcmp
      rw [val_normalize, if_pos rfl, magnitude_subMag hmag.le]
      omega
    next hcmp =>
      have hmag : magnitude B.limbs ≤ magnitude A.limbs := Nat.compare_ne_lt.mp hcmp
      rw [val_normalize, if_neg Bool.false_ne_true, magnitude_subMag hmag]
      omega

/-! ### Multiplication -/

theorem Integer.val_mul (A B : Integer) : (A.mul B).val = A.val * B.val := by
  rw [Integer.mul, val_normalize, magnitude_mulMag, A.val_eq, B.val_eq]
  cases A.sign <;> cases B.sign <;> simp

theorem Integer.val_square (A : Integer) : A.square.val = A.val * A.val := by
  rw [Integer.square, val_normalize, magnitude_mulMag, A.val_eq]
  cases A.sign <;> simp

/-! ### Shifts -/

theorem Integer.val_shl (A : Integer) (n : Nat) : (A.shl n).val = A.val * 2 ^ n := by
  unfold Integer.shl
  split
  next hzero => rw [Integer.val_ofInt, Integer.val_of_isZero hzero, Int.zero_mul]
  next =>
    rw [val_normalize, magnitude_shlMag, A.val_eq]
    cases A.sign <;> simp

/-- The magnitude is divided and the sign kept: division toward zero (R117). -/
theorem Integer.val_shr (A : Integer) (n : Nat) : (A.shr n).val = A.val.tdiv (2 ^ n) := by
  have hmag : ((magnitude A.limbs / 2 ^ n : Nat) : Int) = (magnitude A.limbs : Int).tdiv (2 ^ n) := by
    rw [Int.ofNat_tdiv]
    push_cast
    rfl
  rw [Integer.shr, val_normalize, magnitude_shrKept, hmag, A.val_eq]
  cases A.sign
  case false => rfl
  case true => exact (Int.neg_tdiv _ _).symm

theorem Integer.val_shiftedOut (A : Integer) (n : Nat) :
    (A.shiftedOut n).val = ((A.val.natAbs % 2 ^ n : Nat) : Int) := by
  rw [Integer.shiftedOut, val_normalize, magnitude_shrOut, Integer.natAbs_val]
  rfl

/-! ### Lengths -/

/-- The limbs R128 says a left shift needs are those of the shifted value. -/
theorem Integer.shlLength_eq (A : Integer) (n : Nat) :
    A.shlLength n = (Integer.ofInt (A.val * 2 ^ n)).length := by
  rw [Integer.length_ofInt, limbCount_eq_size, Int.natAbs_mul, Integer.natAbs_val, Int.natAbs_pow]
  unfold Integer.shlLength
  split
  next hzero => simp [beq_iff_eq.mp hzero]
  next hzero =>
    have hmag := Integer.mag_ne_zero_of_not_isZero hzero
    have hsize : Nat.size (A.mag * 2 ^ n) = Nat.size A.mag + n := by
      rw [← Nat.shiftLeft_eq, Nat.size_shiftLeft hmag]
    have hpos : 0 < Nat.size A.mag := Nat.size_pos.mpr (Nat.pos_of_ne_zero hmag)
    rw [bitLength_eq_size, show (2 : Int).natAbs = 2 from rfl, hsize]
    omega

theorem limbCount_mono {m n : Nat} (h : m ≤ n) : limbCount m ≤ limbCount n := by
  have hsize := Nat.size_le_size h
  rw [limbCount_eq_size, limbCount_eq_size]
  omega

/-- A value no larger in magnitude than one that fits fits too (10_state.md R27). -/
theorem Config.fits_of_natAbs_le {c : Config} {y z : Int} (hle : z.natAbs ≤ y.natAbs)
    (hy : c.fits (Integer.ofInt y) = true) : c.fits (Integer.ofInt z) = true := by
  have hcount := limbCount_mono hle
  unfold Config.fits Config.admits at hy ⊢
  rw [Integer.length_ofInt] at hy ⊢
  split
  next => rfl
  next m hm =>
    simp only [hm, decide_eq_true_eq] at hy ⊢
    exact hcount.trans hy

end Sys2Proof
end

section
/-! The commands of 41_arithmetic.md R119 to R133, each from the operation it applies to its sources. -/

namespace Sys2Proof.Machine

/-! ### Two sources, one result -/

/-- A command that applies an operation with the given values to its two sources meets the contract. -/
theorem binaryContract_of_binaryOp {i : Instr} {d a b : RegIdx} {f : Integer → Integer → Integer}
    {g : Int → Int → Int} (hexec : ∀ s, exec i s = finish s (binaryOp f d a b s)) (hcanonical : ∀ A B, (f A B).canonical = true)
    (hval : ∀ A B, (f A B).val = g A.val B.val) : BinaryContract i d a b g := by
  intro s
  constructor
  · intro A B hA hB _ _
    have hrun : exec i s = finish s (s.writeR d (Integer.ofInt (g A.val B.val))) := by
      rw [hexec, binaryOp, State.readR_of_valid hA, State.readR_of_valid hB,
        ← Integer.eq_ofInt (hcanonical A B) (hval A B)]
      rfl
    rw [hrun]
    exact ⟨finish_writeR_of_fits d, finish_writeR_of_not_fits d⟩
  · intro hnone
    rw [hexec, binaryOp]
    cases hA : s.rReg a with
    | none => rw [State.readR_of_invalid hA]; rfl
    | some A =>
      have hB : s.rReg b = none := hnone.resolve_left (by simp [hA])
      rw [State.readR_of_valid hA, State.readR_of_invalid hB]
      rfl

/-- Settles O33: by the value of the sum, whichever magnitude is the larger. -/
theorem addWritesTheSum : Obligations.AddWritesTheSum := by
  unfold Obligations.AddWritesTheSum
  exact fun d a b => ⟨
    binaryContract_of_binaryOp (fun _ => rfl) Integer.canonical_add Integer.val_add,
    binaryContract_of_binaryOp (fun _ => rfl) Integer.canonical_add Integer.val_add⟩

/-- Settles O34: by the value of the difference, which is a sum unless neither operand is negative. -/
theorem subWritesTheDifference : Obligations.SubWritesTheDifference := by
  unfold Obligations.SubWritesTheDifference
  exact fun d a b => ⟨
    binaryContract_of_binaryOp (fun _ => rfl) Integer.canonical_sub Integer.val_sub,
    binaryContract_of_binaryOp (fun _ => rfl) Integer.canonical_sub Integer.val_sub⟩

/-! ### One source, one result -/

/-- A command that applies an operation with the given values to its source meets the contract. -/
theorem unaryContract_of_unaryOp {i : Instr} {d a : RegIdx} {f : Integer → Integer} {g : Int → Int}
    (hexec : ∀ s, exec i s = finish s (unaryOp f d a s))
    (hcanonical : ∀ A, A.canonical = true → (f A).canonical = true) (hval : ∀ A, (f A).val = g A.val) :
    UnaryContract i d a g := by
  intro s
  constructor
  · intro A hA hcanonicalA
    have hrun : exec i s = finish s (s.writeR d (Integer.ofInt (g A.val))) := by
      rw [hexec, unaryOp, State.readR_of_valid hA, ← Integer.eq_ofInt (hcanonical A hcanonicalA) (hval A)]
      rfl
    rw [hrun]
    exact ⟨finish_writeR_of_fits d, finish_writeR_of_not_fits d⟩
  · intro hnone
    rw [hexec, unaryOp, State.readR_of_invalid hnone]
    rfl

/-- A result no larger in magnitude than its source always fits. -/
theorem UnaryContract.shortening {i : Instr} {d a : RegIdx} {g : Int → Int} (h : UnaryContract i d a g)
    (hle : ∀ z, (g z).natAbs ≤ z.natAbs) : ShorteningContract i d a g := by
  intro s
  obtain ⟨hvalid, hinvalid⟩ := h s
  refine ⟨fun A hA hcanonical hfits => ?_, hinvalid⟩
  obtain ⟨hcompletes, -⟩ := hvalid A hA hcanonical
  rw [← Integer.ofInt_val hcanonical] at hfits
  exact hcompletes (Config.fits_of_natAbs_le (hle A.val) hfits)

/-- Settles O35: by the value of the product, whose sign is the exclusive or of the signs. -/
theorem mulWritesTheProduct : Obligations.MulWritesTheProduct := by
  unfold Obligations.MulWritesTheProduct
  exact fun d a b => ⟨
    binaryContract_of_binaryOp (fun _ => rfl) Integer.canonical_mul Integer.val_mul,
    binaryContract_of_binaryOp (fun _ => rfl) Integer.canonical_mul Integer.val_mul,
    unaryContract_of_unaryOp (fun _ => rfl) (fun A _ => A.canonical_square) Integer.val_square⟩

/-- Settles O36: neither value is larger in magnitude than the source. -/
theorem negAndMovWriteTheirValue : Obligations.NegAndMovWriteTheirValue := by
  unfold Obligations.NegAndMovWriteTheirValue
  intro d a
  have hneg : UnaryContract (.neg d a) d a (fun x => -x) :=
    unaryContract_of_unaryOp (fun _ => rfl) (fun A _ => A.canonical_neg) Integer.val_neg
  have hmov : UnaryContract (.mov d a) d a (fun x => x) :=
    unaryContract_of_unaryOp (fun _ => rfl) (fun _ hA => hA) (fun _ => rfl)
  exact ⟨hneg.shortening fun z => (Int.natAbs_neg z).le, hmov.shortening fun _ => le_rfl⟩

/-! ### The left shifts (R128, R129) -/

/-- A shift refused by its count of limbs is one whose result does not fit (log 25). -/
theorem shiftLeft_eq_unaryOp (d a : RegIdx) (imm : BitVec 32) (s : State) :
    shiftLeft d a imm s = unaryOp (Integer.shl · imm.toNat) d a s := by
  have hfits (A : Integer) : s.cfg.admits (A.shlLength imm.toNat) = s.cfg.fits (A.shl imm.toNat) := by
    rw [A.shlLength_eq, ← Integer.eq_ofInt (A.canonical_shl imm.toNat) (A.val_shl imm.toNat)]
    rfl
  simp only [shiftLeft, unaryOp, unsignedImm, hfits]
  congr 1
  funext A
  rw [State.writeR]
  split <;> rfl

theorem unaryContract_of_shiftLeft {i : Instr} {d a : RegIdx} {imm : BitVec 32}
    (hexec : ∀ s, exec i s = finish s (shiftLeft d a imm s)) :
    UnaryContract i d a (fun x => x * 2 ^ imm.toNat) :=
  unaryContract_of_unaryOp (fun s => (hexec s).trans (congrArg (finish s) (shiftLeft_eq_unaryOp d a imm s)))
    (fun A _ => A.canonical_shl imm.toNat) (fun A => A.val_shl imm.toNat)

/-- Settles O37: by the value of the shift, and since R128 counts the limbs of that value. -/
theorem leftShiftsMultiply : Obligations.LeftShiftsMultiply := by
  unfold Obligations.LeftShiftsMultiply
  exact fun d a imm => ⟨unaryContract_of_shiftLeft fun _ => rfl, unaryContract_of_shiftLeft fun _ => rfl⟩

/-! ### The right shifts (R130 to R133) -/

theorem natAbs_tdiv_two_pow_le (z : Int) (n : Nat) : (z.tdiv (2 ^ n)).natAbs ≤ z.natAbs := by
  rw [Int.natAbs_tdiv]
  exact Nat.div_le_self _ _

theorem shorteningContract_of_shiftRight {i : Instr} {d a : RegIdx} {imm : BitVec 32}
    (hexec : ∀ s, exec i s = finish s (shiftRight d a imm s)) :
    ShorteningContract i d a (fun x => x.tdiv (2 ^ imm.toNat)) := by
  have hunary : UnaryContract i d a (fun x => x.tdiv (2 ^ imm.toNat)) :=
    unaryContract_of_unaryOp (f := (Integer.shr · imm.toNat)) hexec (fun A _ => A.canonical_shr imm.toNat)
      (fun A => A.val_shr imm.toNat)
  exact hunary.shortening fun z => natAbs_tdiv_two_pow_le z imm.toNat

/-- Settles O38: a quotient is no larger in magnitude than the source. -/
theorem rightShiftsDivideTowardZero : Obligations.RightShiftsDivideTowardZero := by
  unfold Obligations.RightShiftsDivideTowardZero
  exact fun d a imm => ⟨
    shorteningContract_of_shiftRight fun _ => rfl,
    shorteningContract_of_shiftRight fun _ => rfl⟩

/-- Both results are of the value before the command, and both are written (R131). -/
theorem shiftRightOut_of_fits {d c a : RegIdx} {imm : BitVec 32} {s : State} {A : Integer} (hdc : d ≠ c)
    (hA : s.rReg a = some A) (hkept : s.cfg.fits (A.shr imm.toNat) = true)
    (hout : s.cfg.fits (A.shiftedOut imm.toNat) = true) :
    shiftRightOut d c a imm s = .ok ((s.setR d (A.shr imm.toNat)).setR c (A.shiftedOut imm.toNat)) := by
  rw [shiftRightOut, (destinationsDiffer_eq_ok d c).mpr hdc, State.readR_of_valid hA, unsignedImm]
  simp only [bind, Except.bind, State.writeR_of_fits d hkept]
  exact State.writeR_of_fits c hout

/-- The bits shifted out are no larger than the source either, so both results fit. -/
theorem sideOutputContract_of_shiftRightOut {i : Instr} {d c a : RegIdx} {imm : BitVec 32}
    (hexec : ∀ s, exec i s = finish s (shiftRightOut d c a imm s)) : SideOutputContract i d c a imm.toNat := by
  intro s
  refine ⟨fun A hdc hA hcanonical hfits => ?_, fun hdc hnone => ?_, fun hdc => ?_⟩
  · rw [← Integer.ofInt_val hcanonical] at hfits
    have hshr := Integer.eq_ofInt (A.canonical_shr imm.toNat) (A.val_shr imm.toNat)
    have hshiftedOut := Integer.eq_ofInt (A.canonical_shiftedOut imm.toNat) (A.val_shiftedOut imm.toNat)
    have hkept := Config.fits_of_natAbs_le (natAbs_tdiv_two_pow_le A.val imm.toNat) hfits
    have hout := Config.fits_of_natAbs_le (z := (A.val.natAbs % 2 ^ imm.toNat : Nat)) (Nat.mod_le _ _) hfits
    rw [← hshr] at hkept ⊢
    rw [← hshiftedOut] at hout ⊢
    rw [hexec, shiftRightOut_of_fits hdc hA hkept hout, finish_ok]
  · rw [hexec, shiftRightOut, (destinationsDiffer_eq_ok d c).mpr hdc, State.readR_of_invalid hnone]
    rfl
  · rw [hexec, hdc]
    exact finish_destinationsDiffer_self s c _

/-- Settles O39: by the two results of the old value, after the check of the destinations and the source. -/
theorem sideOutputsAreTheBitsShiftedOut : Obligations.SideOutputsAreTheBitsShiftedOut := by
  unfold Obligations.SideOutputsAreTheBitsShiftedOut
  exact fun d c a imm => ⟨
    sideOutputContract_of_shiftRightOut fun _ => rfl,
    sideOutputContract_of_shiftRightOut fun _ => rfl⟩

end Sys2Proof.Machine
end

section
/-! Long division with quotient-digit estimation (42_division.md R155): every estimate is an under-estimate, so
no pass takes more from the running remainder than it holds. -/

namespace Sys2Proof

/-! ### Leading limbs -/

/-- What is above all limbs but the top one is the top limb. -/
theorem magnitude_div_top_weight (A : List Limb) :
    magnitude A / 2 ^ (26 * (A.length - 1)) = (A.getD (A.length - 1) 0).toNat := by
  rw [magnitude_div_pow, magnitude_drop, List.drop_of_length_le (by omega), magnitude_nil, Nat.mul_zero,
    Nat.add_zero]

/-- What is above all limbs but the top two is the two of them as one number. -/
theorem magnitude_div_top_two_weight {A : List Limb} (hlen : 2 ≤ A.length) :
    magnitude A / 2 ^ (26 * (A.length - 2)) =
      (A.getD (A.length - 1) 0).toNat * 2 ^ 26 + (A.getD (A.length - 2) 0).toNat := by
  have htop := magnitude_div_top_weight A
  rw [magnitude_div_pow] at htop
  rw [magnitude_div_pow, magnitude_drop, show A.length - 2 + 1 = A.length - 1 by omega, htop, Nat.add_comm,
    Nat.mul_comm]

theorem length_pos_of_top {A : List Limb} (htop : A.getLastD 0 ≠ 0) : 0 < A.length := by
  cases A with
  | nil => exact absurd rfl htop
  | cons => exact Nat.succ_pos _

theorem toNat_top_limb_pos {A : List Limb} (htop : A.getLastD 0 ≠ 0) : 0 < (A.getD (A.length - 1) 0).toNat := by
  rw [List.getLastD_eq_getLast?, List.getLast?_eq_getElem?, ← List.getD_eq_getElem?_getD] at htop
  exact Nat.pos_of_ne_zero fun hzero => htop (BitVec.eq_of_toNat_eq hzero)

theorem length_le_of_magnitude_le {A B : List Limb} (htop : B.getLastD 0 ≠ 0) (hle : magnitude B ≤ magnitude A) :
    B.length ≤ A.length := by
  have hpos := toNat_top_limb_pos htop
  rw [← magnitude_div_top_weight, Nat.div_pos_iff] at hpos
  obtain ⟨-, hweight⟩ := hpos
  have hpow := (hweight.trans hle).trans_lt (magnitude_lt A)
  have hexp := (Nat.pow_lt_pow_iff_right (by norm_num)).mp hpow
  omega

/-- A canonical Integer other than zero has a top limb. -/
theorem Integer.top_limb_ne_zero {A : Integer} (hA : A.canonical = true) (hmag : A.mag ≠ 0) :
    A.limbs.getLastD 0 ≠ 0 := by
  obtain rfl | htop := A.canonical_iff.mp hA
  · exact absurd rfl hmag
  · exact htop

/-! ### The estimate -/

/-- What one pass of R155 adds to the quotient: the estimated digit at its limb shift. -/
def estimatedQuotient (R B : List Limb) : Nat :=
  (quotientEstimate R B).2 * 2 ^ (26 * (quotientEstimate R B).1)

/-- Dividing leading limbs by the divisor's leading limbs plus one gives an under-estimate. -/
theorem mul_magnitude_le_of_leading {R B : List Limb} {q i s : Nat}
    (h : q * (magnitude B / 2 ^ (26 * i) + 1) ≤ magnitude R / 2 ^ (26 * (i + s))) :
    q * 2 ^ (26 * s) * magnitude B ≤ magnitude R := by
  have hB : magnitude B ≤ 2 ^ (26 * i) * (magnitude B / 2 ^ (26 * i) + 1) :=
    (Nat.lt_mul_div_succ _ (Nat.two_pow_pos _)).le
  calc q * 2 ^ (26 * s) * magnitude B
    _ ≤ q * 2 ^ (26 * s) * (2 ^ (26 * i) * (magnitude B / 2 ^ (26 * i) + 1)) := Nat.mul_le_mul_left _ hB
    _ = q * (magnitude B / 2 ^ (26 * i) + 1) * 2 ^ (26 * (i + s)) := by rw [Nat.mul_add 26, pow_add]; ring
    _ ≤ magnitude R / 2 ^ (26 * (i + s)) * 2 ^ (26 * (i + s)) := Nat.mul_le_mul_right _ h
    _ ≤ magnitude R := Nat.div_mul_le_self _ _

/-- The estimate from the top two limbs: the clamp only lowers it, and the top limb of the remainder makes it at
least 1. -/
theorem estimatedQuotient_of_two_limbs {R B : List Limb} (hR : R.getLastD 0 ≠ 0) (hB : B.getLastD 0 ≠ 0)
    (hlen : B.length < R.length) (htop : (R.getD (R.length - 1) 0).toNat ≤ (B.getD (B.length - 1) 0).toNat) :
    0 < estimatedQuotient R B ∧ estimatedQuotient R B * magnitude B ≤ magnitude R := by
  have hrt := toNat_top_limb_pos hR
  have hbt := toNat_top_limb_pos hB
  have hbtlt := (B.getD (B.length - 1) 0).isLt
  have hBpos := length_pos_of_top hB
  rw [estimatedQuotient, quotientEstimate, if_pos ⟨hlen, htop⟩]
  constructor
  · refine Nat.mul_pos (lt_min (Nat.div_pos ?_ (Nat.succ_pos _)) (by norm_num)) (Nat.two_pow_pos _)
    omega
  · refine mul_magnitude_le_of_leading (i := B.length - 1) ?_
    rw [magnitude_div_top_weight, show B.length - 1 + (R.length - B.length - 1) = R.length - 2 by omega,
      magnitude_div_top_two_weight (by omega)]
    exact (Nat.mul_le_mul_right _ (min_le_left _ _)).trans (Nat.div_mul_le_self _ _)

/-- The estimate from the top limb; where it would be 0 the lengths agree, and the divisor is taken once. -/
theorem estimatedQuotient_of_one_limb {R B : List Limb} (hB : B.getLastD 0 ≠ 0) (hle : magnitude B ≤ magnitude R)
    (h : ¬(B.length < R.length ∧ (R.getD (R.length - 1) 0).toNat ≤ (B.getD (B.length - 1) 0).toNat)) :
    0 < estimatedQuotient R B ∧ estimatedQuotient R B * magnitude B ≤ magnitude R := by
  have hlen := length_le_of_magnitude_le hB hle
  have hBpos := length_pos_of_top hB
  rw [estimatedQuotient, quotientEstimate, if_neg h]
  dsimp only
  split
  next hzero =>
    rw [Nat.div_eq_zero_iff_lt (Nat.succ_pos _)] at hzero
    have hshift : R.length - B.length = 0 := by omega
    simpa [hshift] using hle
  next hne =>
    refine ⟨Nat.mul_pos (Nat.pos_of_ne_zero hne) (Nat.two_pow_pos _), ?_⟩
    refine mul_magnitude_le_of_leading (i := B.length - 1) ?_
    rw [magnitude_div_top_weight, show B.length - 1 + (R.length - B.length) = R.length - 1 by omega,
      magnitude_div_top_weight]
    exact Nat.div_mul_le_self _ _

/-- Why `T <= R` and why the loop ends (R155). -/
theorem estimatedQuotient_spec {R B : Integer} (hR : R.canonical = true) (hB : B.canonical = true)
    (hpos : 0 < B.mag) (hle : B.mag ≤ R.mag) :
    0 < estimatedQuotient R.limbs B.limbs ∧ estimatedQuotient R.limbs B.limbs * B.mag ≤ R.mag := by
  have hRtop := Integer.top_limb_ne_zero hR (by omega)
  have hBtop := Integer.top_limb_ne_zero hB (by omega)
  by_cases htwo : B.limbs.length < R.limbs.length ∧
      (R.limbs.getD (R.limbs.length - 1) 0).toNat ≤ (B.limbs.getD (B.limbs.length - 1) 0).toNat
  · obtain ⟨hlen, htop⟩ := htwo
    exact estimatedQuotient_of_two_limbs hRtop hBtop hlen htop
  · exact estimatedQuotient_of_one_limb hBtop hle htwo

/-! ### The loop -/

theorem Integer.mag_ofInt_natCast (n : Nat) : (Integer.ofInt n).mag = n := Integer.mag_ofInt n

/-- A normalised sequence without a sign is the Integer of its magnitude. -/
theorem normalize_false_eq_ofInt {ls : List Limb} {n : Nat} (hmag : magnitude ls = n) :
    normalize false ls = Integer.ofInt n := by
  refine Integer.eq_ofInt (canonical_normalize _ _) ?_
  rw [val_normalize, if_neg Bool.false_ne_true, hmag]

/-- One pass moves its estimate from the running remainder to the quotient. -/
theorem longDivPass_eq {B R Q : Integer} (hle : estimatedQuotient R.limbs B.limbs * B.mag ≤ R.mag) :
    longDivPass B R Q = (Integer.ofInt (R.mag - B.mag * estimatedQuotient R.limbs B.limbs : Nat),
      Integer.ofInt (Q.mag + estimatedQuotient R.limbs B.limbs : Nat)) := by
  have hdigit : ∀ n : Nat, magnitude (Integer.ofInt n).limbs = n := Integer.mag_ofInt_natCast
  have hshift : ∀ n s : Nat, magnitude (shlMag (Integer.ofInt n).limbs (26 * s)) = n * 2 ^ (26 * s) :=
    fun n s => by rw [magnitude_shlMag, hdigit]
  have hproduct : ∀ n s : Nat, magnitude (shlMag (mulMag (Integer.ofInt n).limbs B.limbs) (26 * s)) =
      n * 2 ^ (26 * s) * B.mag :=
    fun n s => by rw [magnitude_shlMag, magnitude_mulMag, hdigit, Nat.mul_right_comm]; rfl
  rw [estimatedQuotient, ← hproduct] at hle
  rw [longDivPass, Prod.mk.injEq]
  constructor
  · refine normalize_false_eq_ofInt ?_
    rw [magnitude_subMag hle, hproduct, Nat.mul_comm B.mag]
    rfl
  · refine normalize_false_eq_ofInt ?_
    rw [magnitude_addMag, hshift]
    rfl

/-- R155 from any running remainder and quotient: the fuel outlasts the remainder, which falls on every pass. -/
theorem longDivLoop_eq {B : Integer} (hB : B.canonical = true) (hpos : 0 < B.mag) {fuel r q : Nat}
    (hfuel : r < fuel) :
    longDivLoop B fuel (Integer.ofInt r) (Integer.ofInt q) =
      (Integer.ofInt (q + r / B.mag : Nat), Integer.ofInt (r % B.mag : Nat)) := by
  induction fuel generalizing r q with
  | zero => omega
  | succ fuel ih =>
    have hr := Integer.mag_ofInt_natCast r
    rw [longDivLoop]
    split
    next hcmp =>
      have hlt : r < B.mag := hr ▸ Nat.compare_eq_lt.mp hcmp
      rw [Nat.div_eq_of_lt hlt, Nat.mod_eq_of_lt hlt, Nat.add_zero]
    next hcmp =>
      have hle : B.mag ≤ (Integer.ofInt r).mag := Nat.compare_ne_lt.mp hcmp
      obtain ⟨hk, hkr⟩ := estimatedQuotient_spec (Integer.canonical_ofInt r) hB hpos hle
      rw [longDivPass_eq hkr, hr, Integer.mag_ofInt_natCast]
      rw [hr, Nat.mul_comm] at hkr
      generalize estimatedQuotient (Integer.ofInt r).limbs B.limbs = k at hk hkr
      have hfall : 0 < B.mag * k := Nat.mul_pos hpos hk
      have hkdiv : k ≤ r / B.mag := (Nat.le_div_iff_mul_le hpos).mpr (Nat.mul_comm k _ ▸ hkr)
      rw [ih (by omega), Nat.sub_mul_div, Nat.sub_mul_mod hkr, Nat.add_assoc, Nat.add_sub_cancel' hkdiv]

/-! ### The divider (R152) -/

/-- The one limb of a one-limb divisor is its magnitude. -/
theorem Integer.toNat_limb_of_length_eq_one {B : Integer} (hlen : B.length = 1) :
    (B.limbs.getD 0 0).toNat = B.mag := by
  obtain ⟨l, hl⟩ := List.length_eq_one_iff.mp hlen
  simp [Integer.mag, hl]

/-- Whichever of the three cases applies (R153, R154, R155), the divider gives quotient and remainder of the
magnitudes. -/
theorem divmodMag_eq (A : Integer) {B : Integer} (hB : B.canonical = true) (hpos : 0 < B.mag) :
    divmodMag A B = (Integer.ofInt (A.mag / B.mag : Nat), Integer.ofInt (A.mag % B.mag : Nat)) := by
  unfold divmodMag
  split
  next hcmp =>
    have hlt : A.mag < B.mag := Nat.compare_eq_lt.mp hcmp
    rw [Nat.div_eq_of_lt hlt, Nat.mod_eq_of_lt hlt]
    rfl
  next =>
    split
    next hlen =>
      obtain ⟨hquotient, hremainder⟩ := shortDivScan_eq hpos A.limbs
      rw [Integer.toNat_limb_of_length_eq_one hlen, shortDiv, normalize_false_eq_ofInt hquotient]
      dsimp only
      rw [hremainder]
      rfl
    next =>
      have hloop := longDivLoop_eq hB hpos (q := 0) (Nat.lt_succ_self A.mag)
      rwa [Nat.zero_add] at hloop

/-- What `divrem` (R156) and the contract (R152) apply the divider to. -/
theorem divmodMag_abs_eq (A : Integer) {B : Integer} (hpos : 0 < B.mag) :
    divmodMag A.abs B.abs = (Integer.ofInt (A.mag / B.mag : Nat), Integer.ofInt (A.mag % B.mag : Nat)) := by
  have habs : ∀ C : Integer, C.abs.mag = C.mag := fun C => Integer.mag_ofInt_natCast C.mag
  have hB : B.abs.canonical = true := Integer.canonical_ofInt _
  rw [divmodMag_eq A.abs hB (by rwa [habs]), habs, habs]

theorem Integer.sign_ofInt (z : Int) : (Integer.ofInt z).sign = decide (z < 0) := rfl

theorem Integer.sign_ofInt_natCast (n : Nat) : (Integer.ofInt n).sign = false :=
  decide_eq_false (Int.natCast_nonneg n).not_gt

/-- A canonical Integer without a sign is the one of its magnitude. -/
theorem Integer.eq_ofInt_mag {A : Integer} (hA : A.canonical = true) (hsign : A.sign = false) :
    A = Integer.ofInt A.mag :=
  Integer.eq_ofInt hA (by rw [Integer.val, hsign, if_neg Bool.false_ne_true])

/-- Settles O43: by the pair the divider gives, the same that the contract's magnitudes and signs fix. -/
theorem dividerMeetsItsContract : Obligations.DividerMeetsItsContract := by
  unfold Obligations.DividerMeetsItsContract
  intro A B _ _ hpos
  have hremainder : A.mag % B.mag = A.mag - A.mag / B.mag * B.mag := Nat.mod_eq_sub_div_mul
  rw [divmodMag_abs_eq A hpos]
  dsimp only
  rw [Integer.mag_ofInt_natCast, Integer.mag_ofInt_natCast]
  refine ⟨⟨rfl, hremainder, Nat.div_mul_le_self _ _, Nat.mod_lt _ hpos,
    Integer.canonical_ofInt _, Integer.sign_ofInt_natCast _,
    Integer.canonical_ofInt _, Integer.sign_ofInt_natCast _⟩, ?_⟩
  rintro q r ⟨hqmag, hrmag, -, -, hqcanonical, hqsign, hrcanonical, hrsign⟩
  rw [Integer.eq_ofInt_mag hqcanonical hqsign, Integer.eq_ofInt_mag hrcanonical hrsign, hrmag, hqmag, hremainder]

end Sys2Proof
end

section
/-! The signs of division (42_division.md R156, R161), and the three division commands. -/

namespace Sys2Proof

open Machine (quotientOf remainderOf)

/-! ### The sign table -/

theorem Integer.neg_ofInt (z : Int) : (Integer.ofInt z).neg = Integer.ofInt (-z) :=
  Integer.eq_ofInt (Integer.canonical_neg _) (by rw [Integer.val_neg, Integer.val_ofInt])

theorem Integer.isZero_ofInt_natCast (n : Nat) : (Integer.ofInt n).isZero = decide (n = 0) := by
  rw [Integer.isZero, Integer.mag_ofInt_natCast]
  rfl

/-- Each row of R156 gives the columns of R161. -/
theorem divrem_ofInt (a : Int) {b : Int} (hb : b ≠ 0) :
    divrem (Integer.ofInt a) (Integer.ofInt b) =
      (Integer.ofInt (quotientOf a b), Integer.ofInt (remainderOf a b)) := by
  have hmag : 0 < (Integer.ofInt b).mag := by rw [Integer.mag_ofInt]; omega
  rw [divrem, divmodMag_abs_eq _ hmag]
  simp only [Integer.mag_ofInt, Integer.neg_ofInt, Integer.val_ofInt, Integer.sign_ofInt,
    Integer.isZero_ofInt_natCast, quotientOf, remainderOf]
  generalize a.natAbs / b.natAbs = q, a.natAbs % b.natAbs = r
  obtain hneg | hpos := lt_or_gt_of_ne hb
  · obtain ha | ha := lt_or_ge a 0
    · simp [ha, hneg, hneg.not_gt]
    · simp [ha, hneg, hneg.not_gt, ha.not_gt]
  · obtain ha | ha := lt_or_ge a 0
    · obtain rfl | hr := Nat.eq_zero_or_pos r
      · simp [ha, hpos, hpos.not_gt, ha.not_ge]
      · simp [ha, hpos, hpos.not_gt, ha.not_ge, hr.ne']
    · simp [ha, hpos, hpos.not_gt, ha.not_gt]

/-! ### The sizes of both results -/

theorem natAbs_quotientOf_le (a b : Int) : (quotientOf a b).natAbs ≤ a.natAbs := by
  have hle := Nat.div_le_self a.natAbs b.natAbs
  rw [quotientOf]
  generalize a.natAbs / b.natAbs = q at hle
  split <;> omega

theorem natAbs_remainderOf_le (a : Int) {b : Int} (hb : b ≠ 0) : (remainderOf a b).natAbs ≤ b.natAbs := by
  have hlt := Nat.mod_lt a.natAbs (Int.natAbs_pos.mpr hb)
  rw [remainderOf]
  generalize a.natAbs % b.natAbs = r at hlt
  split <;> omega

end Sys2Proof

namespace Sys2Proof.Machine

/-! ### The operands of the three commands -/

section
variable {s : State} {a b : RegIdx} {A B : Integer}

/-- A zero divisor is found before anything is computed (R151). -/
theorem divisionResult_of_zero (hA : s.rReg a = some A) (hB : s.rReg b = some B) (hzero : B.isZero = true) :
    divisionResult a b s = .error (.trap .divZero) := by
  rw [divisionResult, State.readR_of_valid hA, State.readR_of_valid hB]
  exact if_pos hzero

theorem divisionResult_of_ne_zero (hA : s.rReg a = some A) (hB : s.rReg b = some B) (hcanonicalA : A.canonical = true)
    (hcanonicalB : B.canonical = true) (hne : B.val ≠ 0) :
    divisionResult a b s =
      .ok (Integer.ofInt (quotientOf A.val B.val), Integer.ofInt (remainderOf A.val B.val)) := by
  have hzero : B.isZero = false := Bool.eq_false_iff.mpr fun h => hne (Integer.val_of_isZero h)
  refine (divisionResult_eq_ok a b s _).mpr ⟨A, B, hA, hB, hzero, ?_⟩
  rw [← divrem_ofInt A.val hne, Integer.ofInt_val hcanonicalA, Integer.ofInt_val hcanonicalB]

end

/-! ### The commands (R157 to R159) -/

/-- DIVQR with different destinations: its two writes follow the division. -/
theorem exec_divqr_of_differ {d c : RegIdx} (hdc : d ≠ c) (a b : RegIdx) (s : State) :
    exec (.divqr d c a b) s =
      finish s (divisionResult a b s >>= fun qr => s.writeR d qr.1 >>= fun t => t.writeR c qr.2) := by
  rw [exec, execDivqr, (destinationsDiffer_eq_ok d c).mpr hdc]
  rfl

/-- Settles O45: the division stops each command before it writes. -/
theorem divisionByZeroFaults : Obligations.DivisionByZeroFaults := by
  unfold Obligations.DivisionByZeroFaults
  intro d c a b s A B hA hB hzero
  have hstop := divisionResult_of_zero hA hB hzero
  refine ⟨?_, ?_, fun hdc => ?_⟩
  · rw [exec, execDivq, hstop]; rfl
  · rw [exec, execDivr, hstop]; rfl
  · rw [exec_divqr_of_differ hdc, hstop]; rfl

/-- Settles O44: the quotient is no larger in magnitude than the dividend and the remainder no larger than the
divisor, so both fit. -/
theorem divisionFollowsTheSignTable : Obligations.DivisionFollowsTheSignTable := by
  unfold Obligations.DivisionFollowsTheSignTable
  intro d c a b s A B hA hB hholdsA hholdsB hne
  obtain ⟨hcanonicalA, hfitsA⟩ := Bool.and_eq_true_iff.mp hholdsA
  obtain ⟨hcanonicalB, hfitsB⟩ := Bool.and_eq_true_iff.mp hholdsB
  rw [← Integer.ofInt_val hcanonicalA] at hfitsA
  rw [← Integer.ofInt_val hcanonicalB] at hfitsB
  have hresult := divisionResult_of_ne_zero hA hB hcanonicalA hcanonicalB hne
  have hquotient := Config.fits_of_natAbs_le (natAbs_quotientOf_le A.val B.val) hfitsA
  have hremainder := Config.fits_of_natAbs_le (natAbs_remainderOf_le A.val hne) hfitsB
  refine ⟨?_, ?_, fun hdc => ?_⟩
  · rw [exec, execDivq, hresult]
    exact finish_writeR_of_fits d hquotient
  · rw [exec, execDivr, hresult]
    exact finish_writeR_of_fits d hremainder
  · rw [exec_divqr_of_differ hdc, hresult]
    have hwrites := State.writeR_writeR s d c (Integer.ofInt (quotientOf A.val B.val))
      (Integer.ofInt (remainderOf A.val B.val))
    rw [if_pos ⟨hquotient, hremainder⟩] at hwrites
    exact congrArg (finish s) hwrites

end Sys2Proof.Machine
end

section
/-! The arithmetic on internal temporaries (43_modinv.md R171, 46_curve.md R205): `rem`, the halving, and the
extended binary GCD, whose every step keeps `a * x1 ≡ u` and `a * x2 ≡ v` modulo `p`. -/

namespace Sys2Proof

open Machine (remainderOf)

/-! ### The value-level `rem` and halving -/

/-- The value-level `rem` is the remainder column of R161. -/
theorem remVal_eq_remainderOf (x p : Int) : remVal x p = remainderOf x p := by
  rw [remVal, remainderOf]
  generalize x.natAbs % p.natAbs = r
  by_cases hsigns : x < 0 ∧ 0 < p
  · obtain rfl | hr := Nat.eq_zero_or_pos r
    · simp
    · simp [hsigns, hr.ne']
  · rw [if_neg hsigns, if_neg fun h => hsigns ⟨h.1, h.2.1⟩]

/-- For a positive modulus `rem` is the residue in `[0, p)` (R156, R205). -/
theorem remVal_of_pos {p : Int} (hp : 0 < p) (x : Int) : remVal x p = x % p := by
  obtain ⟨m, rfl⟩ := Int.eq_ofNat_of_zero_le hp.le
  have hm : 0 < m := Int.natCast_pos.mp hp
  obtain hx | hx := lt_or_ge x 0
  · obtain ⟨n, rfl⟩ := Int.exists_eq_neg_ofNat hx.le
    rw [remVal, if_pos ⟨hx, hp⟩, Int.neg_emod, Int.natAbs_neg, Int.natAbs_natCast, Int.natAbs_natCast]
    simp only [Int.natCast_dvd_natCast, Nat.dvd_iff_mod_eq_zero, Int.natCast_mod]
  · obtain ⟨n, rfl⟩ := Int.eq_ofNat_of_zero_le hx
    rw [remVal, if_neg fun h => hx.not_gt h.1]
    rfl

/-- Settles O46: by the sign table of the division and the value of a right shift. -/
theorem temporariesUseTheCommandsArithmetic : Obligations.TemporariesUseTheCommandsArithmetic := by
  unfold Obligations.TemporariesUseTheCommandsArithmetic
  refine ⟨fun A B hA hB hne => ?_, fun A _ => ?_⟩
  · have hdivrem := divrem_ofInt A.val hne
    rw [Integer.ofInt_val hA, Integer.ofInt_val hB] at hdivrem
    rw [hdivrem, Integer.val_ofInt, remVal_eq_remainderOf]
  · rw [Integer.val_shr, pow_one, halfVal]

theorem two_mul_halfVal {x : Int} (hx : x % 2 = 0) : 2 * halfVal x = x :=
  Int.mul_tdiv_cancel' (Int.dvd_of_emod_eq_zero hx)

/-- The corrected half is a half modulo an odd `p`. -/
theorem two_mul_halveCoefficient_modEq {p : Int} (hodd : p % 2 = 1) (x : Int) :
    2 * halveCoefficient p x ≡ x [ZMOD p] := by
  unfold halveCoefficient
  split
  next hx => rw [two_mul_halfVal hx]
  next hx =>
    rw [two_mul_halfVal (by omega)]
    exact Int.add_modEq_right

/-! ### Inverses modulo `p` -/

/-- A factor coprime to the modulus cancels. -/
theorem modEq_of_mul_modEq_mul {a p x y : Int} (hp : 0 < p) (hgcd : Int.gcd a p = 1)
    (h : a * x ≡ a * y [ZMOD p]) : x ≡ y [ZMOD p] := by
  simpa [Int.gcd_comm p a, hgcd] using Int.ModEq.cancel_left_div_gcd hp h

theorem gcd_two_of_odd {p : Int} (hodd : p % 2 = 1) : Int.gcd 2 p = 1 := by
  rw [← Int.gcd_comm, ← Int.gcd_emod, hodd]
  rfl

/-- `x` is what R173 asks of the inverse of `a` modulo `p`. -/
def IsInverse (a p x : Int) : Prop := 0 ≤ x ∧ x < p ∧ a * x ≡ 1 [ZMOD p]

theorem IsInverse.gcd_eq_one {a p x : Int} (h : IsInverse a p x) : Int.gcd a p = 1 := by
  obtain ⟨-, -, hax⟩ := h
  obtain ⟨k, hk⟩ := hax.dvd
  exact Int.isCoprime_iff_gcd_eq_one.mp ⟨x, k, by linarith⟩

theorem IsInverse.unique {a p x y : Int} (hx : IsInverse a p x) (hy : IsInverse a p y) : x = y := by
  have hgcd := hx.gcd_eq_one
  obtain ⟨hx0, hxp, hax⟩ := hx
  obtain ⟨hy0, hyp, hay⟩ := hy
  have hmod : x % p = y % p := modEq_of_mul_modEq_mul (hx0.trans_lt hxp) hgcd (hax.trans hay.symm)
  rwa [Int.emod_eq_of_lt hx0 hxp, Int.emod_eq_of_lt hy0 hyp] at hmod

theorem isInverse_remVal {a p x : Int} (hp : 0 < p) (h : a * x ≡ 1 [ZMOD p]) : IsInverse a p (remVal x p) := by
  rw [remVal_of_pos hp]
  exact ⟨Int.emod_nonneg x hp.ne', Int.emod_lt_of_pos x hp, ((Int.mod_modEq x p).mul_left a).trans h⟩

/-! ### The loop of R171 -/

/-- The coefficient `x` belongs to the remainder `u`: what each of the loop's two pairs keeps. -/
def Represents (a p : Int) (u : Nat) (x : Int) : Prop := a * x ≡ u [ZMOD p]

/-- What the loop keeps of its state: both pairs, and that their remainders are coprime. -/
structure InverseInvariant (a p : Int) (u v : Nat) (x1 x2 : Int) : Prop where
  left : Represents a p u x1
  right : Represents a p v x2
  coprime : Nat.Coprime u v

section
variable {a p x y x1 x2 : Int} {u v fuel : Nat}

theorem Represents.halve (hp : 0 < p) (hodd : p % 2 = 1) (heven : u % 2 = 0) (h : Represents a p u x) :
    Represents a p (u / 2) (halveCoefficient p x) := by
  refine modEq_of_mul_modEq_mul hp (gcd_two_of_odd hodd) ?_
  calc 2 * (a * halveCoefficient p x)
    _ = a * (2 * halveCoefficient p x) := mul_left_comm _ _ _
    _ ≡ a * x [ZMOD p] := (two_mul_halveCoefficient_modEq hodd x).mul_left a
    _ ≡ u [ZMOD p] := h
    _ = 2 * (u / 2 : Nat) := by omega

theorem Represents.sub (hu : Represents a p u x) (hv : Represents a p v y) (hle : v ≤ u) :
    Represents a p (u - v) (x - y) := by
  rw [Represents, mul_sub, Nat.cast_sub hle]
  exact Int.ModEq.sub hu hv

theorem Represents.stripTwos (hp : 0 < p) (hodd : p % 2 = 1) (fuel : Nat) (h : Represents a p u x) :
    Represents a p (stripTwos p fuel u x).1 (stripTwos p fuel u x).2 := by
  induction fuel generalizing u x with
  | zero => exact h
  | succ fuel ih =>
    rw [Sys2Proof.stripTwos]
    split
    next heven => exact ih (h.halve hp hodd heven)
    next => exact h

/-- Halving leaves a divisor. -/
theorem stripTwos_dvd (p : Int) (fuel u : Nat) (x : Int) : (stripTwos p fuel u x).1 ∣ u := by
  induction fuel generalizing u x with
  | zero => exact dvd_rfl
  | succ fuel ih =>
    rw [stripTwos]
    split
    next heven => exact (ih _ _).trans (Nat.div_dvd_of_dvd (Nat.dvd_of_mod_eq_zero heven))
    next => exact dvd_rfl

/-- A non-zero remainder is odd after `u` halvings at most: the fuel of the inner loops is enough. -/
theorem stripTwos_odd (p : Int) (x : Int) (hu : 0 < u) (hfuel : u ≤ fuel) : (stripTwos p fuel u x).1 % 2 = 1 := by
  induction fuel generalizing u x with
  | zero => omega
  | succ fuel ih =>
    rw [stripTwos]
    split
    next => exact ih _ (by omega) (by omega)
    next hodd => exact Nat.mod_two_ne_zero.mp hodd

theorem InverseInvariant.strip (hp : 0 < p) (hodd : p % 2 = 1) (h : InverseInvariant a p u v x1 x2) :
    InverseInvariant a p (stripTwos p u u x1).1 (stripTwos p v v x2).1
      (stripTwos p u u x1).2 (stripTwos p v v x2).2 where
  left := h.left.stripTwos hp hodd u
  right := h.right.stripTwos hp hodd v
  coprime := (h.coprime.coprime_dvd_left (stripTwos_dvd p u u x1)).coprime_dvd_right (stripTwos_dvd p v v x2)

theorem InverseInvariant.subLeft (h : InverseInvariant a p u v x1 x2) (hle : v ≤ u) :
    InverseInvariant a p (u - v) v (x1 - x2) x2 where
  left := h.left.sub h.right hle
  right := h.right
  coprime := (Nat.coprime_sub_self_left hle).mpr h.coprime

theorem InverseInvariant.subRight (h : InverseInvariant a p u v x1 x2) (hle : u ≤ v) :
    InverseInvariant a p u (v - u) x1 (x2 - x1) where
  left := h.left
  right := h.right.sub h.left hle
  coprime := (Nat.coprime_sub_self_right hle).mpr h.coprime

/-- When the loop stops, one of its two coprime remainders is 1. -/
theorem InverseInvariant.right_eq_one (h : InverseInvariant a p u v x1 x2) (hstop : ¬ (1 < u ∧ 1 < v)) (hu : u ≠ 1) :
    v = 1 := by
  obtain hzero | hgt : u = 0 ∨ 1 < u := by omega
  · exact (Nat.coprime_zero_left v).mp (hzero ▸ h.coprime)
  · have hv : v ≠ 0 := fun hzero => hu ((Nat.coprime_zero_right u).mp (hzero ▸ h.coprime))
    omega

/-- Every pass keeps the invariant and lowers `u + v` (R177), so the loop ends with an inverse. -/
theorem isInverse_inverseLoop (hp : 0 < p) (hodd : p % 2 = 1) (hfuel : u + v < fuel)
    (h : InverseInvariant a p u v x1 x2) : IsInverse a p (inverseLoop p fuel u v x1 x2) := by
  induction fuel generalizing u v x1 x2 with
  | zero => omega
  | succ fuel ih =>
    rw [inverseLoop]
    split
    next hgt =>
      have hstrip := h.strip hp hodd
      have hu := Nat.le_of_dvd (by omega) (stripTwos_dvd p u u x1)
      have hv := Nat.le_of_dvd (by omega) (stripTwos_dvd p v v x2)
      dsimp only
      split
      next hle => exact ih (by omega) (hstrip.subLeft hle)
      next hlt => exact ih (by omega) (hstrip.subRight (by omega))
    next hstop =>
      split
      next hu => exact isInverse_remVal hp (by simpa [Represents, hu] using h.left)
      next hu => exact isInverse_remVal hp (by simpa [Represents, h.right_eq_one hstop hu] using h.right)

end

/-! ### The inverse (R170, R173) -/

theorem inverseDefined_iff {a p : Int} :
    inverseDefined a p = true ↔ 0 < p ∧ p % 2 = 1 ∧ Int.gcd a p = 1 := by
  simp [inverseDefined, Int.gcd, and_assoc]

/-- The accumulators 1 and 0 of R171 start the loop in its invariant. -/
theorem inverseInvariant_start {a p : Int} (hp : 0 < p) (hgcd : Int.gcd a p = 1) :
    InverseInvariant a p (remVal a p).natAbs p.natAbs 1 0 where
  left := by
    rw [Represents, mul_one, remVal_of_pos hp, Int.natAbs_of_nonneg (Int.emod_nonneg a hp.ne')]
    exact (Int.mod_modEq a p).symm
  right := by
    rw [Represents, mul_zero, Int.natAbs_of_nonneg hp.le]
    exact Int.modulus_modEq_zero.symm
  coprime := by
    rw [remVal_of_pos hp]
    exact (Int.gcd_emod a p).trans hgcd

theorem isInverse_inverseVal {a p : Int} (hp : 0 < p) (hodd : p % 2 = 1) (hgcd : Int.gcd a p = 1) :
    IsInverse a p (inverseVal a p) :=
  isInverse_inverseLoop hp hodd (Nat.lt_succ_self _) (inverseInvariant_start hp hgcd)

/-- Settles O48: the loop's result is the inverse, which is unique. -/
theorem inversePostcondition : Obligations.InversePostcondition := by
  unfold Obligations.InversePostcondition
  intro a p hp hodd hgcd
  obtain ⟨hnonneg, hlt, hmul⟩ := isInverse_inverseVal hp hodd hgcd
  refine ⟨Integer.canonical_ofInt _, hnonneg, hlt, fun hone => ?_, fun hone => by omega,
    fun x hx0 hxp hax => IsInverse.unique ⟨hx0, hxp, hax⟩ ⟨hnonneg, hlt, hmul⟩⟩
  rw [remVal_of_pos hp, hmul.eq, Int.emod_eq_of_lt zero_le_one hone]

end Sys2Proof
end

section
/-! MODINV (43_modinv.md R172), and what it and the curve unit do outside the preconditions of R170. -/

namespace Sys2Proof

theorem Integer.isZero_iff (A : Integer) : A.isZero = true ↔ A.val = 0 := by
  rw [Integer.isZero, beq_iff_eq, ← Integer.natAbs_val, Int.natAbs_eq_zero]

theorem Integer.isZero_of_val_ne_zero {A : Integer} (hne : A.val ≠ 0) : A.isZero = false :=
  Bool.eq_false_iff.mpr fun hzero => hne (A.isZero_iff.mp hzero)

end Sys2Proof

namespace Sys2Proof.Machine

/-! ### The commands on valid sources -/

section
variable {s : State} {d a b : RegIdx}

theorem State.readCurve_of_valid {k : CurveContext} (hk : s.curve = some k) : s.readCurve = .ok k :=
  (s.readCurve_eq_ok k).mpr hk

theorem exec_modinv_of_valid {A P : Integer} (hA : s.rReg a = some A) (hP : s.rReg b = some P) :
    exec (.modinv d a b) s = finish s
      (if P.isZero then .error (.trap .divZero)
      else if inverseDefined A.val P.val then s.writeR d (Integer.ofInt (inverseVal A.val P.val))
      else s.undefinedR d) := by
  rw [exec, execModinv, State.readR_of_valid hA, State.readR_of_valid hP]
  rfl

theorem exec_padd_of_valid {X Y : Point} {k : CurveContext} (hX : s.pReg a = some X) (hY : s.pReg b = some Y)
    (hk : s.curve = some k) :
    exec (.padd d a b) s = finish s
      (if k.p.isZero then .error (.trap .divZero)
      else pointResult d (addPoints (pointVal X) (pointVal Y) k.p.val) s) := by
  rw [exec, execPadd, State.readP_of_valid hX, State.readP_of_valid hY, State.readCurve_of_valid hk]
  rfl

theorem exec_pdbl_of_valid {X : Point} {k : CurveContext} (hX : s.pReg a = some X) (hk : s.curve = some k) :
    exec (.pdbl d a) s = finish s
      (if k.p.isZero then .error (.trap .divZero)
      else pointResult d (doublePoint (pointVal X) k.p.val) s) := by
  rw [exec, execPdbl, State.readP_of_valid hX, State.readCurve_of_valid hk]
  rfl

theorem exec_pmul_of_valid {k : Integer} {Q : Point} {E : CurveContext} (hk : s.rReg a = some k)
    (hQ : s.pReg b = some Q) (hE : s.curve = some E) :
    exec (.pmul d a b) s = finish s
      (if k.val ≤ 0 ∨ k.val > E.n.val then .error (.trap .range)
      else if 2 ≤ k.val ∧ E.p.isZero then .error (.trap .divZero)
      else pointResult d (multiplyPoint k.mag (pointVal Q) E.p.val) s) := by
  rw [exec, execPmul, State.readR_of_valid hk, State.readP_of_valid hQ, State.readCurve_of_valid hE]
  rfl

end

/-! ### MODINV on defined inputs -/

/-- Settles O47: a value with an inverse is coprime to the modulus, so the loop's result is that inverse; it is
below the modulus, so it fits. -/
theorem modinvWritesTheInverse : Obligations.ModinvWritesTheInverse := by
  unfold Obligations.ModinvWritesTheInverse
  intro d a b s A P hA hP _ hholds
  rw [exec_modinv_of_valid hA hP]
  refine ⟨fun x hp hodd hx0 hxp hax => ?_, fun hzero => ?_⟩
  · obtain ⟨hcanonical, hfits⟩ := Bool.and_eq_true_iff.mp hholds
    rw [← Integer.ofInt_val hcanonical] at hfits
    have hx : IsInverse A.val P.val x := ⟨hx0, hxp, hax⟩
    have hgcd := hx.gcd_eq_one
    rw [if_neg (Bool.eq_false_iff.mp (Integer.isZero_of_val_ne_zero hp.ne')),
      if_pos (inverseDefined_iff.mpr ⟨hp, hodd, hgcd⟩),
      (isInverse_inverseVal hp hodd hgcd).unique hx]
    exact finish_writeR_of_fits d (Config.fits_of_natAbs_le (by omega) hfits)
  · rw [if_pos (P.isZero_iff.mpr hzero), finish_trap]

/-! ### Undefined inputs (R175, R213) -/

section
variable {s : State} {d : RegIdx} {i : Instr}

theorem undefinedInteger_of_exec (hc : s.cfg.wf = true) (h : exec i s = finish s (s.undefinedR d)) :
    UndefinedInteger i d s := by
  obtain hstuck | hdone := s.undefinedR_cases d
  · exact .inl (by rw [h, hstuck, finish_stuck])
  · exact .inr ⟨s.freeInteger 0, Config.holds_ofInt_cutToCapacity hc _, by rw [h, hdone, finish_ok]⟩

theorem undefinedPoint_of_exec (hc : s.cfg.wf = true) (h : exec i s = finish s (pointResult d none s)) :
    UndefinedPoint i d s := by
  rw [pointResult_none] at h
  have hfree (part : Nat) : s.cfg.holds (s.freeInteger part) = true := Config.holds_ofInt_cutToCapacity hc _
  obtain hstuck | hdone := s.undefinedP_cases d
  · exact .inl (by rw [h, hstuck, finish_stuck])
  · exact .inr ⟨{ x := s.freeInteger 0, y := s.freeInteger 1 }, Bool.and_eq_true_iff.mpr ⟨hfree 0, hfree 1⟩,
      by rw [h, hdone, finish_ok]⟩

end

/-- No chord: equal x coordinates, or a difference without an inverse (R207, R213, C7). -/
theorem addPoints_eq_none {P Q : PointVal} {p : Int}
    (h : P.1 = Q.1 ∨ ¬(0 < p ∧ p % 2 = 1 ∧ Int.gcd (Q.1 - P.1) p = 1)) : addPoints P Q p = none := by
  rw [← Option.not_isSome_iff_eq_none, addPoints_isSome, inverseDefined_iff]
  rintro ⟨hne, hdefined⟩
  obtain heq | hundefined := h
  · exact hne (sub_eq_zero_of_eq heq.symm)
  · exact hundefined hdefined

/-- No tangent: any Point but (0, 0) whose `2y` has no inverse (R209, R213). -/
theorem doublePoint_eq_none {P : PointVal} {p : Int} (hne : ¬(P.1 = 0 ∧ P.2 = 0))
    (h : ¬(0 < p ∧ p % 2 = 1 ∧ Int.gcd (2 * P.2) p = 1)) : doublePoint P p = none := by
  rw [doublePoint, if_neg hne, if_neg fun hdefined => h (inverseDefined_iff.mp hdefined)]

/-- Settles O49: past the checks of its command each input has no result, and an undefined input waits or
completes. -/
theorem undefinedInputsWaitOrComplete : Obligations.UndefinedInputsWaitOrComplete := by
  unfold Obligations.UndefinedInputsWaitOrComplete
  intro d a b s hc
  refine ⟨fun A P hA hP hne hundefined => undefinedInteger_of_exec hc ?modinv,
    fun X Y k hX hY hk hne hundefined => undefinedPoint_of_exec hc ?padd,
    fun X k hX hk hne horigin hundefined => undefinedPoint_of_exec hc ?pdbl,
    fun k Q E hk hQ hE hpos hle hne hundefined => undefinedPoint_of_exec hc ?pmul⟩
  case modinv =>
    rw [exec_modinv_of_valid hA hP, Integer.isZero_of_val_ne_zero hne, if_neg Bool.false_ne_true,
      if_neg fun hdefined => hundefined (inverseDefined_iff.mp hdefined)]
  case padd =>
    rw [exec_padd_of_valid hX hY hk, Integer.isZero_of_val_ne_zero hne, if_neg Bool.false_ne_true,
      addPoints_eq_none hundefined]
  case pdbl =>
    rw [exec_pdbl_of_valid hX hk, Integer.isZero_of_val_ne_zero hne, if_neg Bool.false_ne_true,
      doublePoint_eq_none horigin hundefined]
  case pmul =>
    have hmag : k.val.toNat = k.mag := by rw [← k.natAbs_val]; omega
    rw [hmag] at hundefined
    rw [exec_pmul_of_valid hk hQ hE, if_neg (by omega), Integer.isZero_of_val_ne_zero hne,
      if_neg fun h => Bool.false_ne_true h.2, hundefined]

end Sys2Proof.Machine
end

section
/-! The strings STS writes (44_format.md R180 to R183) as positional digit strings: the chunks a formatter joins
are the digits of the magnitude in base `base ^ 6`, and each chunk gives six digits of it in base `base`. -/

namespace Sys2Proof

open Machine (plainDigits signedDigits)

/-! ### Positional digits -/

theorem ofNat_digitChar : ∀ v < 16, BitVec.ofNat 8 (Nat.digitChar v).toNat = digitChar v := by decide

theorem digitChar_beq_zero_char : ∀ v < 16, (digitChar v == 0x30) = decide (v = 0) := by decide

theorem plainDigits_zero (base : Nat) : plainDigits base 0 = [0x30] := by
  rw [plainDigits, Nat.toDigits_zero]
  rfl

theorem plainDigits_ne_nil (base n : Nat) : plainDigits base n ≠ [] :=
  fun h => Nat.toDigits_ne_nil (List.map_eq_nil_iff.mp h)

section
variable {base : Nat}

theorem plainDigits_of_lt {n : Nat} (hbase : base ≤ 16) (hn : n < base) : plainDigits base n = [digitChar n] := by
  rw [plainDigits, Nat.toDigits_of_lt_base hn, List.map_singleton, ofNat_digitChar _ (hn.trans_le hbase)]

theorem plainDigits_of_le {n : Nat} (hone : 1 < base) (hbase : base ≤ 16) (hn : base ≤ n) :
    plainDigits base n = plainDigits base (n / base) ++ [digitChar (n % base)] := by
  have hlast := (Nat.mod_lt n (by omega : 0 < base)).trans_le hbase
  rw [plainDigits, Nat.toDigits_of_base_le hone hn, List.map_append, List.map_singleton, ofNat_digitChar _ hlast]
  rfl

/-- A chunk after a number that is not zero: its digits follow, zeros included. -/
theorem plainDigits_mul_pow_add (hone : 1 < base) (hbase : base ≤ 16) {z : Nat} (hz : 0 < z) {k n : Nat}
    (hn : n < base ^ k) : plainDigits base (z * base ^ k + n) = plainDigits base z ++ paddedDigits base k n := by
  induction k generalizing n with
  | zero =>
    obtain rfl : n = 0 := by simpa using hn
    simp [paddedDigits]
  | succ k ih =>
    have hpos : 0 < base := by omega
    have hrest : n / base < base ^ k := Nat.div_lt_of_lt_mul (by rwa [← pow_succ'])
    have hsplit : z * base ^ (k + 1) + n = n + base * (z * base ^ k) := by ring
    have hle : base ≤ n + base * (z * base ^ k) :=
      (Nat.le_mul_of_pos_right base (by positivity)).trans (Nat.le_add_left _ _)
    rw [hsplit, plainDigits_of_le hone hbase hle, Nat.add_mul_div_left _ _ hpos, Nat.add_mul_mod_self_left,
      Nat.add_comm (n / base), ih hrest, paddedDigits, List.append_assoc]

/-- A chunk without its leading zeros is its number's digits; nothing is left of a zero chunk. -/
theorem stripZeros_paddedDigits (hone : 1 < base) (hbase : base ≤ 16) {k n : Nat} (hn : n < base ^ k) :
    stripZeros (paddedDigits base k n) = if n = 0 then [] else plainDigits base n := by
  induction k generalizing n with
  | zero =>
    obtain rfl : n = 0 := by simpa using hn
    rfl
  | succ k ih =>
    have hrest : n / base < base ^ k := Nat.div_lt_of_lt_mul (by rwa [← pow_succ'])
    rw [paddedDigits, stripZeros, List.dropWhile_append, ← stripZeros, ih hrest]
    by_cases hlt : n < base
    · rw [Nat.div_eq_of_lt hlt, Nat.mod_eq_of_lt hlt, plainDigits_of_lt hbase hlt]
      simp only [if_true, List.isEmpty_nil, List.dropWhile_cons, List.dropWhile_nil,
        digitChar_beq_zero_char n (hlt.trans_le hbase), decide_eq_true_iff]
    · have hle := not_lt.mp hlt
      have hquotient : n / base ≠ 0 := (Nat.div_pos hle (by omega)).ne'
      have hnonempty : ¬ (plainDigits base (n / base)).isEmpty = true :=
        fun h => plainDigits_ne_nil _ _ (List.isEmpty_iff.mp h)
      rw [plainDigits_of_le hone hbase hle, if_neg hquotient, if_neg hnonempty,
        if_neg (by omega : n ≠ 0)]

theorem plainDigits_horner (hone : 1 < base) (hbase : base ≤ 16) {z : Nat} (hz : 0 < z) {chunks : List Nat}
    (hlt : ∀ v ∈ chunks, v < base ^ 6) :
    plainDigits base (horner (base ^ 6) z chunks) =
      plainDigits base z ++ (chunks.map (paddedDigits base 6)).flatten := by
  induction chunks generalizing z with
  | nil => simp
  | cons v vs ih =>
    obtain ⟨hv, hvs⟩ := List.forall_mem_cons.mp hlt
    have hnext : 0 < z * base ^ 6 + v := Nat.add_pos_left (by positivity) v
    rw [horner_cons, ih hnext hvs, plainDigits_mul_pow_add hone hbase hz hv, List.append_assoc, List.map_cons,
      List.flatten_cons]

/-- Chunks that begin with one that is not zero join to the digits of the number they stand for. -/
theorem joinChunks_eq_plainDigits (hone : 1 < base) (hbase : base ≤ 16) {chunks : List Nat}
    (hlt : ∀ v ∈ chunks, v < base ^ 6) (hhead : chunks.head? ≠ some 0) (hvalue : horner (base ^ 6) 0 chunks ≠ 0) :
    joinChunks base chunks = plainDigits base (horner (base ^ 6) 0 chunks) := by
  cases chunks with
  | nil => exact absurd rfl hvalue
  | cons top rest =>
    obtain ⟨htop, hrest⟩ := List.forall_mem_cons.mp hlt
    have hne : top ≠ 0 := fun h => hhead (congrArg some h)
    rw [joinChunks, stripZeros_paddedDigits hone hbase htop, if_neg hne, horner_cons, Nat.zero_mul, Nat.zero_add,
      plainDigits_horner hone hbase (Nat.pos_of_ne_zero hne) hrest]

/-- The groups from the first that is not zero on join to the digits of the number all of them stand for. -/
theorem joinChunks_dropWhile_zero (hone : 1 < base) (hbase : base ≤ 16) {groups : List Nat}
    (hlt : ∀ v ∈ groups, v < base ^ 6) (hvalue : horner (base ^ 6) 0 groups ≠ 0) :
    joinChunks base (groups.dropWhile (· == 0)) = plainDigits base (horner (base ^ 6) 0 groups) := by
  have hhead : (groups.dropWhile (· == 0)).head? ≠ some 0 := fun hzero => by
    have hfirst := List.head?_dropWhile_not (· == 0) groups
    rw [hzero] at hfirst
    exact absurd hfirst (by decide)
  rw [← horner_dropWhile_zero] at hvalue ⊢
  exact joinChunks_eq_plainDigits hone hbase (fun v hv => hlt v ((List.dropWhile_sublist _).mem hv)) hhead hvalue

end

/-! ### The formatters (R182, R183) -/

theorem signedDigits_eq_withSign (base : Nat) (A : Integer) :
    signedDigits base A = withSign A.sign (plainDigits base A.mag) := rfl

/-- Canonical zero has no sign, so its string is `0`. -/
theorem signedDigits_of_isZero (base : Nat) {A : Integer} (hA : A.canonical = true) (hzero : A.isZero = true) :
    signedDigits base A = [0x30] := by
  rw [Integer.eq_ofInt hA (Integer.val_of_isZero hzero)]
  exact plainDigits_zero base

/-- The leading chunk of the decimal loop is the last remainder, of a value below 1,000,000 that is not zero. -/
theorem head?_decimalChunks {fuel : Nat} {C : Integer} (hfuel : C.mag ≤ fuel) {chunks : List Nat}
    (hchunks : C.mag = 0 → chunks.head? ≠ some 0) : (decimalChunks fuel C chunks).head? ≠ some 0 := by
  induction fuel generalizing C chunks with
  | zero => exact hchunks (Nat.le_zero.mp hfuel)
  | succ fuel ih =>
    rw [decimalChunks]
    split
    next hzero => exact hchunks (beq_iff_eq.mp hzero)
    next hzero =>
      have hne : magnitude C.limbs ≠ 0 := Integer.mag_ne_zero_of_not_isZero hzero
      have hquotient := mag_shortDiv (dv := 1000000) (by norm_num) C.limbs
      have hremainder := shortDiv_remainder (dv := 1000000) (by norm_num) C.limbs
      rw [Integer.mag] at hfuel
      refine ih (by omega) fun hlast => ?_
      rw [List.head?_cons, ne_eq, Option.some.injEq]
      omega

theorem hexGroup_lt (A : List Limb) (j : Nat) : hexGroup A j < 2 ^ 24 := Nat.mod_lt _ (by norm_num)

/-- Settles O29: the groups from the first that is not zero on are the base-2^24 digits of the magnitude. -/
theorem hexStringIsPositional : Obligations.HexStringIsPositional := by
  unfold Obligations.HexStringIsPositional
  intro A hA
  rw [hexText]
  split
  next hzero => exact (signedDigits_of_isZero 16 hA hzero).symm
  next hzero =>
    have hvalue : horner (16 ^ 6) 0 ((List.range ((26 * A.length + 23) / 24)).reverse.map (hexGroup A.limbs)) =
        A.mag := horner_hexGroups (by rw [Integer.length]; omega)
    have hne := Integer.mag_ne_zero_of_not_isZero hzero
    dsimp only
    rw [joinChunks_dropWhile_zero (by norm_num) le_rfl
      (List.forall_mem_map.mpr fun j _ => hexGroup_lt A.limbs j) (hvalue.trans_ne hne), hvalue,
      signedDigits_eq_withSign]

/-- Settles O30: the remainders of the divisions by 1,000,000 are the base-10^6 digits of the magnitude. -/
theorem decStringIsPositional : Obligations.DecStringIsPositional := by
  unfold Obligations.DecStringIsPositional
  intro A hA
  rw [decText]
  split
  next hzero => exact (signedDigits_of_isZero 10 hA hzero).symm
  next hzero =>
    have hne := Integer.mag_ne_zero_of_not_isZero hzero
    have habs : A.abs.mag = A.mag := Integer.mag_ofInt_natCast A.mag
    have hvalue : horner (10 ^ 6) 0 (decimalChunks A.mag A.abs []) = A.mag := by
      rw [horner_decimalChunks habs.le, horner_nil, habs]
    rw [joinChunks_eq_plainDigits (by norm_num) (by norm_num) (decimalChunks_lt A.mag A.abs (by simp))
      (head?_decimalChunks habs.le (by simp)) (hvalue.trans_ne hne), hvalue, signedDigits_eq_withSign]

end Sys2Proof

namespace Sys2Proof.Machine

/-! ### STS (R181) -/

theorem formatBase_of_illegal {m : BitVec 8} (hm : ¬ IsLegalBase m) : formatBase m = .error (.trap .base) := by
  obtain ⟨h0, h10, h16⟩ : m ≠ 0 ∧ m ≠ 10 ∧ m ≠ 16 := by simpa [IsLegalBase] using hm
  rw [formatBase, numberBase, if_neg h0, if_neg]
  rintro (h | h)
  · exact h10 (BitVec.eq_of_toNat_eq h)
  · exact h16 (BitVec.eq_of_toNat_eq h)

theorem stsText_eq_signedDigits {A : Integer} {m : BitVec 8} (hA : A.canonical = true) (hm : IsLegalBase m) :
    stsText A m = signedDigits (if m = 16 then 16 else 10) A := by
  rw [stsText, numberBase_of_legal hm]
  by_cases h16 : m = 16
  · rw [if_pos h16, if_pos rfl, hexStringIsPositional A hA]
  · rw [if_neg h16, if_neg (by norm_num), decStringIsPositional A hA]

section
variable {s : State} {a : RegIdx} {m : BitVec 8}

theorem exec_sts_of_invalid (m : BitVec 8) (ha : s.rReg a = none) :
    exec (.sts a m) s = .next (s.faultEntry .uninit) := by
  rw [exec, execSts, State.readR_of_invalid ha]
  rfl

theorem exec_sts_of_illegalBase {A : Integer} (hA : s.rReg a = some A) (hm : ¬ IsLegalBase m) :
    exec (.sts a m) s = .next (s.faultEntry .base) := by
  rw [exec, execSts, State.readR_of_valid hA, formatBase_of_illegal hm]
  rfl

theorem exec_sts_of_not_holds {A : Integer} (hA : s.rReg a = some A) (hm : IsLegalBase m)
    (hholds : s.bufferHolds (stsText A m).length = false) :
    exec (.sts a m) s = .next (s.faultEntry .capacity) := by
  rw [stsText, numberBase_of_legal hm] at hholds
  rw [exec, execSts, State.readR_of_valid hA, formatBase_of_legal hm]
  simp only [bind, Except.bind, State.storeText_eq, hholds, if_neg Bool.false_ne_true, finish_trap]

end

/-- What a command stores once it completes with a text in the buffer. -/
theorem storesText_of_exec {i : Instr} {s : State} {text : List Byte}
    (h : exec i s = .next (s.withText text).complete) : StoresText i s text :=
  ⟨h, fun _ hk => s.readByte_withText hk, fun _ hk => s.readByte_withText_of_le hk, toNat_iolen_withText s⟩

/-- Settles O28: by the checks in R181's order, and by the two strings' digits. -/
theorem stsWritesTheString : Obligations.StsWritesTheString := by
  unfold Obligations.StsWritesTheString
  refine fun a m s => ⟨exec_sts_of_invalid m, fun A hA hcanonical => ⟨fun ⟨h0, h10, h16⟩ => ?base, fun hm => ?text⟩⟩
  case base => exact exec_sts_of_illegalBase hA fun hm => hm.elim h0 fun hm => hm.elim h10 h16
  case text =>
    rw [← stsText_eq_signedDigits hcanonical hm]
    exact ⟨fun hholds => storesText_of_exec (exec_sts_of_holds hA hm hholds), exec_sts_of_not_holds hA hm⟩

end Sys2Proof.Machine
end

section
/-! The Point unit (45_point.md R190 to R196): it copies values, compares them and writes them as text, and
computes none. -/

namespace Sys2Proof

/-- Canonical Integers with one value are one Integer, so `int_eq` is equality (10_state.md R12). -/
theorem Integer.eqVal_of_canonical {A B : Integer} (hA : A.canonical = true) (hB : B.canonical = true) :
    A.eqVal B = decide (A = B) := by
  have hiff : A.val = B.val ↔ A = B :=
    ⟨fun hval => (Integer.ofInt_val hA).symm.trans (hval ▸ Integer.ofInt_val hB), congrArg Integer.val⟩
  rw [Integer.eqVal, beq_eq_decide, decide_eq_decide.mpr hiff]

theorem Config.fitsPoint_iff {c : Config} {X : Point} :
    c.fitsPoint X = true ↔ c.fits X.x = true ∧ c.fits X.y = true := by
  rw [Config.fitsPoint, Bool.and_eq_true]

end Sys2Proof

namespace Sys2Proof.Machine

/-! ### The end of a Point write and of a text -/

section
variable {s : State}

theorem finish_writeP_of_fits {X : Point} (d : RegIdx) (h : s.cfg.fitsPoint X = true) :
    finish s (s.writeP d X) = .next (s.setP d X).complete := by
  rw [State.writeP_of_fits d h, finish_ok]

theorem finish_storeText_of_holds {text : List Byte} (h : s.bufferHolds text.length = true) :
    finish s (s.storeText text) = .next (s.withText text).complete := by
  rw [State.storeText_eq, if_pos h, finish_ok, State.withText]

theorem finish_storeText_of_not_holds {text : List Byte} (h : s.bufferHolds text.length = false) :
    finish s (s.storeText text) = .next (s.faultEntry .capacity) := by
  rw [State.storeText_eq, if_neg (Bool.eq_false_iff.mp h), finish_trap]

end

/-! ### The commands on valid sources -/

section
variable {s : State} {d a b : RegIdx}

theorem exec_pmk_of_valid {x y : Integer} (hx : s.rReg a = some x) (hy : s.rReg b = some y) :
    exec (.pmk d a b) s = finish s (s.writeP d { x := x, y := y }) := by
  rw [exec, execPmk, State.readR_of_valid hx, State.readR_of_valid hy]
  rfl

theorem exec_pgx_of_valid {X : Point} (hX : s.pReg a = some X) :
    exec (.pgx d a) s = finish s (s.writeR d X.x) := by
  rw [exec, execPgx, State.readP_of_valid hX]
  rfl

theorem exec_pgy_of_valid {X : Point} (hX : s.pReg a = some X) :
    exec (.pgy d a) s = finish s (s.writeR d X.y) := by
  rw [exec, execPgy, State.readP_of_valid hX]
  rfl

theorem exec_pmov_of_valid {X : Point} (hX : s.pReg a = some X) :
    exec (.pmov d a) s = finish s (s.writeP d X) := by
  rw [exec, execPmov, State.readP_of_valid hX]
  rfl

theorem exec_peq_of_valid {X Y : Point} (hX : s.pReg a = some X) (hY : s.pReg b = some Y) :
    exec (.peq a b) s = .next (s.setEq (pointsEqual X Y)).complete := by
  rw [exec, execPeq, State.readP_of_valid hX, State.readP_of_valid hY]
  rfl

theorem exec_psts_of_valid {X : Point} (hX : s.pReg a = some X) :
    exec (.psts a) s = finish s (s.storeText (pointText X)) := by
  rw [exec, execPsts, State.readP_of_valid hX]
  rfl

end

/-! ### PMK, PGX, PGY, PMOV (R191 to R194) -/

/-- Settles O50: a Point fits exactly when both coordinates do, so no copy meets the capacity check. -/
theorem pointCommandsCopy : Obligations.PointCommandsCopy := by
  unfold Obligations.PointCommandsCopy
  refine fun d a b s => ⟨fun x y hx hy hfitsX hfitsY => ?make, fun X hX hfits => ?copy⟩
  case make =>
    rw [exec_pmk_of_valid hx hy]
    exact finish_writeP_of_fits d (Config.fitsPoint_iff.mpr ⟨hfitsX, hfitsY⟩)
  case copy =>
    obtain ⟨hfitsX, hfitsY⟩ := Config.fitsPoint_iff.mp hfits
    rw [exec_pgx_of_valid hX, exec_pgy_of_valid hX, exec_pmov_of_valid hX]
    exact ⟨finish_writeR_of_fits d hfitsX, finish_writeR_of_fits d hfitsY, finish_writeP_of_fits d hfits⟩

/-! ### PEQ (R195) -/

theorem pointsEqual_of_canonical {X Y : Point} (hXx : X.x.canonical = true) (hXy : X.y.canonical = true)
    (hYx : Y.x.canonical = true) (hYy : Y.y.canonical = true) : pointsEqual X Y = decide (X = Y) := by
  have hiff : X = Y ↔ X.x = Y.x ∧ X.y = Y.y := by
    cases X; cases Y; rw [Point.mk.injEq]
  rw [pointsEqual, Integer.eqVal_of_canonical hXx hYx, Integer.eqVal_of_canonical hXy hYy, ← Bool.decide_and,
    decide_eq_decide.mpr hiff]

/-- Settles O51: coordinates equal in value are the same canonical Integers. -/
theorem peqComparesValues : Obligations.PeqComparesValues := by
  unfold Obligations.PeqComparesValues
  intro a b s X Y hX hY hXx hXy hYx hYy
  rw [exec_peq_of_valid hX hY, pointsEqual_of_canonical hXx hXy hYx hYy]
  rfl

/-! ### PSTS (R196) -/

theorem pointText_eq_signedDigits {X : Point} (hx : X.x.canonical = true) (hy : X.y.canonical = true) :
    pointText X = [0x28] ++ signedDigits 16 X.x ++ [0x2C, 0x20] ++ signedDigits 16 X.y ++ [0x29] := by
  rw [pointText, hexStringIsPositional X.x hx, hexStringIsPositional X.y hy]

/-- Settles O52: the stored text holds each coordinate's hexadecimal string (R182). -/
theorem pstsWritesThePoint : Obligations.PstsWritesThePoint := by
  unfold Obligations.PstsWritesThePoint
  intro a s X hX hx hy
  rw [← pointText_eq_signedDigits hx hy]
  exact ⟨fun hholds => storesText_of_exec ((exec_psts_of_valid hX).trans (finish_storeText_of_holds hholds)),
    fun hholds => (exec_psts_of_valid hX).trans (finish_storeText_of_not_holds hholds)⟩

end Sys2Proof.Machine
end

section
/-! The group law of 46_curve.md R206 and R208 seen as one construction: the third Point of a line. A sum and
a double are given by any slope of the chord or the tangent, not by the inverse the loop of R171 finds. -/

namespace Sys2Proof

open Machine (OnCurve SameResidues)

/-! ### Residues of the operand of an inverse (R170) -/

section
variable {p a a' i : Int}

theorem inverseDefined_of_mul_modEq_one (hp : 0 < p) (hodd : p % 2 = 1) (h : a * i ≡ 1 [ZMOD p]) :
    inverseDefined a p = true :=
  inverseDefined_iff.mpr ⟨hp, hodd, (isInverse_remVal hp h).gcd_eq_one⟩

theorem inverseDefined_congr (h : a ≡ a' [ZMOD p]) : inverseDefined a p = inverseDefined a' p := by
  have hgcd : Int.gcd a p = Int.gcd a' p := by rw [← Int.gcd_emod, h.eq, Int.gcd_emod]
  rw [Bool.eq_iff_iff, inverseDefined_iff, inverseDefined_iff, hgcd]

theorem inverseDefined_neg (a p : Int) : inverseDefined (-a) p = inverseDefined a p := by
  rw [Bool.eq_iff_iff, inverseDefined_iff, inverseDefined_iff, Int.neg_gcd]

theorem mul_inverseVal_modEq_one (h : inverseDefined a p = true) : a * inverseVal a p ≡ 1 [ZMOD p] := by
  obtain ⟨hp, hodd, hgcd⟩ := inverseDefined_iff.mp h
  exact (isInverse_inverseVal hp hodd hgcd).2.2

theorem modEq_of_mul_modEq_mul_of_defined {x y : Int} (ha : inverseDefined a p = true)
    (h : a * x ≡ a * y [ZMOD p]) : x ≡ y [ZMOD p] := by
  obtain ⟨hp, -, hgcd⟩ := inverseDefined_iff.mp ha
  exact modEq_of_mul_modEq_mul hp hgcd h

/-- Above the modulus 1, zero has no inverse (log 27). -/
theorem ne_zero_of_inverseDefined (hp : 1 < p) (h : inverseDefined a p = true) : a ≠ 0 := by
  rintro rfl
  obtain ⟨-, -, hgcd⟩ := inverseDefined_iff.mp h
  rw [Int.gcd_zero_left] at hgcd
  omega

/-- Any inverse `i` of `a` gives a solution of `a * lam ≡ c`. -/
theorem mul_quotient_modEq (h : a * i ≡ 1 [ZMOD p]) (c : Int) : a * (c * i % p) ≡ c [ZMOD p] := by
  calc a * (c * i % p)
    _ ≡ a * (c * i) [ZMOD p] := (Int.mod_modEq (c * i) p).mul_left a
    _ = c * (a * i) := mul_left_comm a c i
    _ ≡ c * 1 [ZMOD p] := h.mul_left c
    _ = c := mul_one c

end

/-! ### The third Point of a line -/

/-- The x coordinate at which the line of slope `lam` through `x1` and `x2` meets the curve again. -/
def thirdX (p lam x1 x2 : Int) : Int := (lam * lam - x1 - x2) % p

/-- The reflected third Point of the line of slope `lam` through `P` and a Point at `x2`. -/
def thirdPoint (p lam : Int) (P : PointVal) (x2 : Int) : PointVal :=
  (thirdX p lam P.1 x2, (lam * (P.1 - thirdX p lam P.1 x2) - P.2) % p)

/-- Both coordinates are residues modulo `p` (R205). -/
def IsReduced (p : Int) (v : PointVal) : Prop := 0 ≤ v.1 ∧ v.1 < p ∧ 0 ≤ v.2 ∧ v.2 < p

section
variable {p lam lam' x2 x2' : Int} {P P' Q : PointVal}

theorem isReduced_thirdPoint (hp : 0 < p) (lam : Int) (P : PointVal) (x2 : Int) :
    IsReduced p (thirdPoint p lam P x2) :=
  ⟨Int.emod_nonneg _ hp.ne', Int.emod_lt_of_pos _ hp, Int.emod_nonneg _ hp.ne', Int.emod_lt_of_pos _ hp⟩

theorem thirdPoint_congr (hlam : lam ≡ lam' [ZMOD p]) (hP : SameResidues p P P') (hx2 : x2 ≡ x2' [ZMOD p]) :
    thirdPoint p lam P x2 = thirdPoint p lam' P' x2' := by
  obtain ⟨hx : P.1 ≡ P'.1 [ZMOD p], hy : P.2 ≡ P'.2 [ZMOD p]⟩ := hP
  have hthird : thirdX p lam P.1 x2 = thirdX p lam' P'.1 x2' := ((hlam.mul hlam).sub hx).sub hx2
  rw [thirdPoint, thirdPoint, hthird]
  exact Prod.ext rfl ((hlam.mul (hx.sub_right _)).sub hy)

/-- A line does not depend on which of its two Points comes first. -/
theorem thirdPoint_comm (hslope : (Q.1 - P.1) * lam ≡ Q.2 - P.2 [ZMOD p]) :
    thirdPoint p lam Q P.1 = thirdPoint p lam P Q.1 := by
  have hthird : thirdX p lam Q.1 P.1 = thirdX p lam P.1 Q.1 := by rw [thirdX, thirdX, sub_right_comm]
  rw [thirdPoint, thirdPoint, hthird]
  refine Prod.ext rfl ?_
  calc lam * (Q.1 - thirdX p lam P.1 Q.1) - Q.2
    _ = (Q.1 - P.1) * lam + (lam * (P.1 - thirdX p lam P.1 Q.1) - Q.2) := by ring
    _ ≡ (Q.2 - P.2) + (lam * (P.1 - thirdX p lam P.1 Q.1) - Q.2) [ZMOD p] := hslope.add_right _
    _ = lam * (P.1 - thirdX p lam P.1 Q.1) - P.2 := by ring

end

/-! ### The chord (R206) -/

section
variable {p lam : Int} {P P' Q Q' v v' : PointVal}

theorem addPoints_of_slope (hne : P.1 ≠ Q.1) (hdefined : inverseDefined (Q.1 - P.1) p = true)
    (hslope : (Q.1 - P.1) * lam ≡ Q.2 - P.2 [ZMOD p]) : addPoints P Q p = some (thirdPoint p lam P Q.1) := by
  have hlam : (Q.2 - P.2) * inverseVal (Q.1 - P.1) p % p ≡ lam [ZMOD p] :=
    modEq_of_mul_modEq_mul_of_defined hdefined
      ((mul_quotient_modEq (mul_inverseVal_modEq_one hdefined) _).trans hslope.symm)
  obtain ⟨hp, -, -⟩ := inverseDefined_iff.mp hdefined
  rw [addPoints]
  dsimp only
  rw [if_pos ⟨sub_ne_zero.mpr hne.symm, hdefined⟩]
  simp only [remVal_of_pos hp]
  exact congrArg some (thirdPoint_congr hlam ⟨rfl, rfl⟩ rfl)

/-- What a sum is when there is one: the third Point of the chord, for a slope of it. -/
theorem exists_slope_of_addPoints (h : addPoints P Q p = some v) :
    P.1 ≠ Q.1 ∧ inverseDefined (Q.1 - P.1) p = true ∧
      ∃ lam, (Q.1 - P.1) * lam ≡ Q.2 - P.2 [ZMOD p] ∧ v = thirdPoint p lam P Q.1 := by
  obtain ⟨hdiff, hdefined⟩ := (Machine.addPoints_isSome P Q p).mp (h ▸ rfl)
  have hne : P.1 ≠ Q.1 := (sub_ne_zero.mp hdiff).symm
  have hslope := mul_quotient_modEq (mul_inverseVal_modEq_one hdefined) (Q.2 - P.2)
  exact ⟨hne, hdefined, _, hslope, Option.some.inj (h.symm.trans (addPoints_of_slope hne hdefined hslope))⟩

theorem isReduced_of_addPoints (h : addPoints P Q p = some v) : IsReduced p v := by
  obtain ⟨-, hdefined, lam, -, rfl⟩ := exists_slope_of_addPoints h
  exact isReduced_thirdPoint (inverseDefined_iff.mp hdefined).1 lam P Q.1

/-- Operands with the residues of a defined sum have the same sum, if their x coordinates differ. -/
theorem addPoints_of_sameResidues (hP : SameResidues p P P') (hQ : SameResidues p Q Q') (hne : P'.1 ≠ Q'.1)
    (h : addPoints P Q p = some v) : addPoints P' Q' p = some v := by
  obtain ⟨-, hdefined, lam, hslope, rfl⟩ := exists_slope_of_addPoints h
  obtain ⟨hQx : Q.1 ≡ Q'.1 [ZMOD p], hQy : Q.2 ≡ Q'.2 [ZMOD p]⟩ := hQ
  have hdx : Q.1 - P.1 ≡ Q'.1 - P'.1 [ZMOD p] := hQx.sub hP.1
  have hdy : Q.2 - P.2 ≡ Q'.2 - P'.2 [ZMOD p] := hQy.sub hP.2
  rw [thirdPoint_congr rfl hP hQx]
  exact addPoints_of_slope hne (inverseDefined_congr hdx ▸ hdefined)
    ((hdx.symm.mul_right lam).trans (hslope.trans hdy))

theorem Machine.SameResidues.symm (h : SameResidues p P Q) : SameResidues p Q P := ⟨h.1.symm, h.2.symm⟩

/-- Above the modulus 1 a sum of congruent operands is defined with the other: a difference with an inverse
is not zero. -/
theorem addPoints_of_sameResidues_of_one_lt (hp : 1 < p) (hP : SameResidues p P P') (hQ : SameResidues p Q Q')
    (h : addPoints P Q p = some v) : addPoints P' Q' p = some v := by
  obtain ⟨-, hdefined, -⟩ := exists_slope_of_addPoints h
  have hdx : Q.1 - P.1 ≡ Q'.1 - P'.1 [ZMOD p] := Int.ModEq.sub hQ.1 hP.1
  rw [inverseDefined_congr hdx] at hdefined
  exact addPoints_of_sameResidues hP hQ (sub_ne_zero.mp (ne_zero_of_inverseDefined hp hdefined)).symm h

theorem addPoints_swap (h : addPoints P Q p = some v) : addPoints Q P p = some v := by
  obtain ⟨hne, hdefined, lam, hslope, rfl⟩ := exists_slope_of_addPoints h
  have hback : (P.1 - Q.1) * lam ≡ P.2 - Q.2 [ZMOD p] := by
    rw [← neg_sub Q.1, ← neg_sub Q.2, neg_mul]
    exact hslope.neg
  rw [← thirdPoint_comm hslope]
  exact addPoints_of_slope hne.symm (by rwa [← neg_sub, inverseDefined_neg]) hback

/-- Settles O59: the chord is one line from either end. -/
theorem additionCommutes : Obligations.AdditionCommutes := by
  unfold Obligations.AdditionCommutes
  exact fun P Q p => ⟨Option.ext fun v => ⟨addPoints_swap, addPoints_swap⟩,
    fun hx => Machine.addPoints_eq_none (.inl hx)⟩

end

/-! ### The tangent (R208, R210) -/

section
variable {p lam : Int} {P P' v : PointVal}

theorem eq_origin_iff : P = (0, 0) ↔ P.1 = 0 ∧ P.2 = 0 := Prod.ext_iff

theorem doublePoint_origin (p : Int) : doublePoint (0, 0) p = some (0, 0) := if_pos ⟨rfl, rfl⟩

theorem doublePoint_of_slope (hP : P ≠ (0, 0)) (hdefined : inverseDefined (2 * P.2) p = true)
    (hslope : 2 * P.2 * lam ≡ 3 * (P.1 * P.1) [ZMOD p]) : doublePoint P p = some (thirdPoint p lam P P.1) := by
  have hlam : 3 * (P.1 * P.1) * inverseVal (2 * P.2) p % p ≡ lam [ZMOD p] :=
    modEq_of_mul_modEq_mul_of_defined hdefined
      ((mul_quotient_modEq (mul_inverseVal_modEq_one hdefined) _).trans hslope.symm)
  obtain ⟨hp, -, -⟩ := inverseDefined_iff.mp hdefined
  rw [doublePoint, if_neg (mt eq_origin_iff.mpr hP), if_pos hdefined]
  simp only [remVal_of_pos hp, two_mul P.1, ← sub_sub]
  exact congrArg some (thirdPoint_congr hlam ⟨rfl, rfl⟩ rfl)

/-- What a double is when there is one: (0, 0) for itself, else the third Point of the tangent, for a slope
of it. -/
theorem exists_slope_of_doublePoint (h : doublePoint P p = some v) :
    P = (0, 0) ∧ v = (0, 0) ∨
      P ≠ (0, 0) ∧ inverseDefined (2 * P.2) p = true ∧
        ∃ lam, 2 * P.2 * lam ≡ 3 * (P.1 * P.1) [ZMOD p] ∧ v = thirdPoint p lam P P.1 := by
  by_cases hP : P = (0, 0)
  · subst hP
    exact .inl ⟨rfl, Option.some.inj (h.symm.trans (doublePoint_origin p))⟩
  · have hdefined : inverseDefined (2 * P.2) p = true := by
      rw [inverseDefined_iff]
      by_contra hundefined
      exact nomatch h.symm.trans (Machine.doublePoint_eq_none (mt eq_origin_iff.mpr hP) hundefined)
    have hslope := mul_quotient_modEq (mul_inverseVal_modEq_one hdefined) (3 * (P.1 * P.1))
    exact .inr ⟨hP, hdefined, _, hslope, Option.some.inj (h.symm.trans (doublePoint_of_slope hP hdefined hslope))⟩

theorem isReduced_of_doublePoint (hp : 0 < p) (h : doublePoint P p = some v) : IsReduced p v := by
  obtain ⟨-, rfl⟩ | ⟨-, -, lam, -, rfl⟩ := exists_slope_of_doublePoint h
  · exact ⟨le_rfl, hp, le_rfl, hp⟩
  · exact isReduced_thirdPoint hp lam P P.1

theorem doublePoint_of_sameResidues (hsame : SameResidues p P P') (hP : P ≠ (0, 0)) (hP' : P' ≠ (0, 0))
    (h : doublePoint P p = some v) : doublePoint P' p = some v := by
  obtain ⟨hzero, -⟩ | ⟨-, hdefined, lam, hslope, rfl⟩ := exists_slope_of_doublePoint h
  · exact absurd hzero hP
  · obtain ⟨hx : P.1 ≡ P'.1 [ZMOD p], hy : P.2 ≡ P'.2 [ZMOD p]⟩ := hsame
    have htwo : 2 * P.2 ≡ 2 * P'.2 [ZMOD p] := hy.mul_left 2
    rw [thirdPoint_congr rfl ⟨hx, hy⟩ hx]
    exact doublePoint_of_slope hP' (inverseDefined_congr htwo ▸ hdefined)
      ((htwo.symm.mul_right lam).trans (hslope.trans ((hx.mul hx).mul_left 3)))

end

/-- Settles O58: slopes of congruent chords and tangents are congruent, and the third Point is reduced. -/
theorem curveResultsDependOnResidues : Obligations.CurveResultsDependOnResidues := by
  unfold Obligations.CurveResultsDependOnResidues
  intro p P P' Q Q' hp hP hQ
  refine ⟨fun hone => Option.ext fun v => ⟨addPoints_of_sameResidues_of_one_lt hone hP hQ,
      addPoints_of_sameResidues_of_one_lt hone hP.symm hQ.symm⟩,
    fun v v' h h' => ?unique,
    fun hne hne' => Option.ext fun v => ⟨doublePoint_of_sameResidues hP hne hne',
      doublePoint_of_sameResidues hP.symm hne' hne⟩,
    fun v h => h.elim isReduced_of_addPoints (isReduced_of_doublePoint hp)⟩
  case unique =>
    obtain ⟨hne', -⟩ := exists_slope_of_addPoints h'
    exact Option.some.inj ((addPoints_of_sameResidues hP hQ hne' h).symm.trans h')

end Sys2Proof
end

section
/-! The scalar multiple of 46_curve.md R211: the left-to-right loop as a recursion on the scalar's lowest bit. -/

namespace Sys2Proof

/-- One pass of R211's loop: double, and add `Q` for a 1 bit. -/
def multiplyStep (one : Bool) (Q : PointVal) (p : Int) (acc : PointVal) : Option PointVal :=
  (doublePoint acc p).bind fun acc2 => if one then addPoints acc2 Q p else some acc2

section
variable {k : Nat} {Q : PointVal} {p : Int}

theorem multiplyLoop_succ (k : Nat) (Q : PointVal) (p : Int) (j : Nat) (acc : PointVal) :
    multiplyLoop k Q p (j + 1) acc = (multiplyStep (k.testBit j) Q p acc).bind (multiplyLoop k Q p j) := by
  rw [multiplyStep, Option.bind_assoc, multiplyLoop]
  refine congrArg (Option.bind _) (funext fun acc2 => ?_)
  cases k.testBit j <;> rfl

/-- The loop over `j + 1` bits is the loop over the upper `j` and a pass for the lowest. -/
theorem multiplyLoop_half (k : Nat) (Q : PointVal) (p : Int) (j : Nat) (acc : PointVal) :
    multiplyLoop k Q p (j + 1) acc = (multiplyLoop (k / 2) Q p j acc).bind (multiplyStep (k.testBit 0) Q p) := by
  induction j generalizing acc with
  | zero =>
    rw [multiplyLoop_succ]
    exact Option.bind_fun_some _
  | succ j ih =>
    rw [multiplyLoop_succ, multiplyLoop_succ (k / 2), Nat.testBit_succ, Option.bind_assoc]
    exact congrArg _ (funext ih)

theorem bitLength_sub_one_of_two_le (hk : 2 ≤ k) : bitLength k - 1 = bitLength (k / 2) - 1 + 1 := by
  rw [bitLength, bitLength, if_neg (by omega), if_neg (by omega), Nat.log2_def, if_pos hk]
  rfl

theorem multiplyPoint_one (Q : PointVal) (p : Int) : multiplyPoint 1 Q p = some Q := rfl

theorem multiplyPoint_of_two_le (hk : 2 ≤ k) :
    multiplyPoint k Q p = (multiplyPoint (k / 2) Q p).bind (multiplyStep (k.testBit 0) Q p) := by
  rw [multiplyPoint, multiplyPoint, bitLength_sub_one_of_two_le hk, multiplyLoop_half]

/-- Settles O57: appending a bit to the scalar appends a pass to the loop. -/
theorem multiplyPointIsDoubleAndAdd : Obligations.MultiplyPointIsDoubleAndAdd := by
  unfold Obligations.MultiplyPointIsDoubleAndAdd
  refine fun Q p => ⟨multiplyPoint_one Q p, fun k hk => ⟨?even, ?odd⟩⟩
  case even =>
    have hbit : (2 * k).testBit 0 = false := by simp
    rw [multiplyPoint_of_two_le (by omega), Nat.mul_div_cancel_left k two_pos, hbit]
    exact congrArg _ (funext fun acc => Option.bind_fun_some _)
  case odd =>
    have hbit : (2 * k + 1).testBit 0 = true := by simp
    have hhalf : (2 * k + 1) / 2 = k := by omega
    rw [multiplyPoint_of_two_le (by omega), hhalf, hbit]
    rfl

/-- From the scalar 2 on, the last operation of a defined multiple is a double or an addition of `Q`. -/
theorem exists_last_operation {v : PointVal} (hk : 2 ≤ k) (h : multiplyPoint k Q p = some v) :
    ∃ acc, multiplyPoint (k / 2) Q p = some acc ∧
      (doublePoint acc p = some v ∨ ∃ acc2, doublePoint acc p = some acc2 ∧ addPoints acc2 Q p = some v) := by
  rw [multiplyPoint_of_two_le hk] at h
  obtain ⟨acc, hacc, hstep⟩ := Option.bind_eq_some_iff.mp h
  obtain ⟨acc2, hdouble, hrest⟩ := Option.bind_eq_some_iff.mp hstep
  refine ⟨acc, hacc, ?_⟩
  split at hrest
  next => exact .inr ⟨acc2, hdouble, hrest⟩
  next => exact .inl (hdouble.trans hrest)

/-- What doubles and additions of `Q` keep holds of every defined multiple of `Q`. -/
theorem multiplyPoint_induction {motive : PointVal → Prop} (start : motive Q)
    (double : ∀ acc v, motive acc → doublePoint acc p = some v → motive v)
    (add : ∀ acc v, motive acc → addPoints acc Q p = some v → motive v)
    {v : PointVal} (hk : 1 ≤ k) (h : multiplyPoint k Q p = some v) : motive v := by
  induction k using Nat.strong_induction_on generalizing v with
  | _ k ih =>
    obtain rfl | htwo : k = 1 ∨ 2 ≤ k := by omega
    · exact Option.some.inj ((multiplyPoint_one Q p).symm.trans h) ▸ start
    · obtain ⟨acc, hacc, hlast⟩ := exists_last_operation htwo h
      have hmotive : motive acc := ih (k / 2) (by omega) (by omega) hacc
      obtain hdouble | ⟨acc2, hdouble, hadd⟩ := hlast
      · exact double acc v hmotive hdouble
      · exact add acc2 v (double acc acc2 hmotive hdouble) hadd

end

end Sys2Proof
end

section
/-! The curve `y² = x³ + b` (46_curve.md R200): a line through two of its Points, or tangent at one, meets it
once more. -/

namespace Sys2Proof

open Machine (OnCurve SameResidues)

section
variable {b p lam : Int} {P Q v : PointVal}

theorem onCurve_congr (h : SameResidues p P Q) : OnCurve b p P ↔ OnCurve b p Q := by
  obtain ⟨hx : P.1 ≡ Q.1 [ZMOD p], hy : P.2 ≡ Q.2 [ZMOD p]⟩ := h
  have hleft : P.2 * P.2 % p = Q.2 * Q.2 % p := hy.mul hy
  have hright : (P.1 * P.1 * P.1 + b) % p = (Q.1 * Q.1 * Q.1 + b) % p := ((hx.mul hx).mul hx).add_right b
  rw [OnCurve, OnCurve, hleft, hright]

/-- The third Point before its coordinates are reduced. -/
def unreducedThirdPoint (lam : Int) (P : PointVal) (x2 : Int) : PointVal :=
  (lam * lam - P.1 - x2, lam * (P.1 - (lam * lam - P.1 - x2)) - P.2)

theorem thirdPoint_sameResidues (p lam : Int) (P : PointVal) (x2 : Int) :
    SameResidues p (thirdPoint p lam P x2) (unreducedThirdPoint lam P x2) := by
  have hx : thirdX p lam P.1 x2 ≡ lam * lam - P.1 - x2 [ZMOD p] := Int.mod_modEq _ p
  exact ⟨hx, (Int.mod_modEq _ p).trans (((hx.sub_left P.1).mul_left lam).sub_right P.2)⟩

/-- The line of slope `lam` through `P` and `Q` is a secant of `y² = x³ + b`, or its tangent when `P = Q`:
`y2² - y1² = x2³ - x1³` with `y2 - y1 = lam * (x2 - x1)` put in and the factor `x2 - x1` divided out. -/
def IsSecant (p lam : Int) (P Q : PointVal) : Prop :=
  lam * (P.2 + Q.2) ≡ P.1 * P.1 + P.1 * Q.1 + Q.1 * Q.1 [ZMOD p]

/-- The cubic in `x` that a secant leaves has the roots `x1`, `x2` and `thirdX`. -/
theorem onCurve_thirdPoint (hP : OnCurve b p P) (hslope : (Q.1 - P.1) * lam ≡ Q.2 - P.2 [ZMOD p])
    (hsecant : IsSecant p lam P Q) : OnCurve b p (thirdPoint p lam P Q.1) := by
  rw [onCurve_congr (thirdPoint_sameResidues p lam P Q.1)]
  have hP : P.2 * P.2 ≡ P.1 * P.1 * P.1 + b [ZMOD p] := hP
  have hcoefficient : lam * (2 * P.2 + (Q.1 - P.1) * lam) ≡ P.1 * P.1 + P.1 * Q.1 + Q.1 * Q.1 [ZMOD p] := by
    calc lam * (2 * P.2 + (Q.1 - P.1) * lam)
      _ ≡ lam * (2 * P.2 + (Q.2 - P.2)) [ZMOD p] := (hslope.add_left _).mul_left lam
      _ = lam * (P.2 + Q.2) := by ring
      _ ≡ P.1 * P.1 + P.1 * Q.1 + Q.1 * Q.1 [ZMOD p] := hsecant
  set X := lam * lam - P.1 - Q.1 with hX
  set Y := lam * (P.1 - X) - P.2 with hY
  calc Y * Y
    _ = P.2 * P.2 + lam * (2 * P.2 + (Q.1 - P.1) * lam) * (X - P.1)
        + (X - P.1) * (X * X + X * P.1 - P.1 * Q.1 - Q.1 * Q.1) := by rw [hY, hX]; ring
    _ ≡ P.1 * P.1 * P.1 + b + (P.1 * P.1 + P.1 * Q.1 + Q.1 * Q.1) * (X - P.1)
        + (X - P.1) * (X * X + X * P.1 - P.1 * Q.1 - Q.1 * Q.1) [ZMOD p] :=
      (hP.add (hcoefficient.mul_right _)).add_right _
    _ = X * X * X + b := by ring

theorem isSecant_of_chord (hdefined : inverseDefined (Q.1 - P.1) p = true)
    (hslope : (Q.1 - P.1) * lam ≡ Q.2 - P.2 [ZMOD p]) (hP : OnCurve b p P) (hQ : OnCurve b p Q) :
    IsSecant p lam P Q := by
  have hP : P.2 * P.2 ≡ P.1 * P.1 * P.1 + b [ZMOD p] := hP
  have hQ : Q.2 * Q.2 ≡ Q.1 * Q.1 * Q.1 + b [ZMOD p] := hQ
  refine modEq_of_mul_modEq_mul_of_defined hdefined ?_
  calc (Q.1 - P.1) * (lam * (P.2 + Q.2))
    _ = (Q.1 - P.1) * lam * (P.2 + Q.2) := (mul_assoc _ _ _).symm
    _ ≡ (Q.2 - P.2) * (P.2 + Q.2) [ZMOD p] := hslope.mul_right _
    _ = Q.2 * Q.2 - P.2 * P.2 := by ring
    _ ≡ (Q.1 * Q.1 * Q.1 + b) - (P.1 * P.1 * P.1 + b) [ZMOD p] := hQ.sub hP
    _ = (Q.1 - P.1) * (P.1 * P.1 + P.1 * Q.1 + Q.1 * Q.1) := by ring

theorem isSecant_of_tangent (hslope : 2 * P.2 * lam ≡ 3 * (P.1 * P.1) [ZMOD p]) : IsSecant p lam P P := by
  calc lam * (P.2 + P.2)
    _ = 2 * P.2 * lam := by ring
    _ ≡ 3 * (P.1 * P.1) [ZMOD p] := hslope
    _ = P.1 * P.1 + P.1 * P.1 + P.1 * P.1 := by ring

theorem onCurve_of_addPoints (hP : OnCurve b p P) (hQ : OnCurve b p Q) (h : addPoints P Q p = some v) :
    OnCurve b p v := by
  obtain ⟨-, hdefined, lam, hslope, rfl⟩ := exists_slope_of_addPoints h
  exact onCurve_thirdPoint hP hslope (isSecant_of_chord hdefined hslope hP hQ)

theorem onCurve_of_doublePoint (hP : OnCurve b p P) (h : doublePoint P p = some v) : OnCurve b p v := by
  obtain ⟨hzero, rfl⟩ | ⟨-, -, lam, hslope, rfl⟩ := exists_slope_of_doublePoint h
  · exact hzero ▸ hP
  · have hflat : (P.1 - P.1) * lam ≡ P.2 - P.2 [ZMOD p] := by rw [sub_self, sub_self, zero_mul]
    exact onCurve_thirdPoint hP hflat (isSecant_of_tangent hslope)

end

/-- Settles O60: chord and tangent are secants, and a multiple is made of sums and doubles. -/
theorem resultsStayOnTheCurve : Obligations.ResultsStayOnTheCurve := by
  unfold Obligations.ResultsStayOnTheCurve
  exact fun b p P Q hP hQ => ⟨fun v => onCurve_of_addPoints hP hQ, fun v => onCurve_of_doublePoint hP,
    fun k v => multiplyPoint_induction hP (fun acc v => onCurve_of_doublePoint)
      (fun acc v hacc => onCurve_of_addPoints hacc hP)⟩

end Sys2Proof
end

section
/-! The curve unit's commands (46_curve.md R201 to R212) on valid sources and inputs with a result. -/

namespace Sys2Proof

/-- Neither coordinate exceeds the modulus in magnitude, so both fit where it does (R27, R205). A reduced Point
is so, and (0, 0) is for any modulus, a negative one too. -/
def IsBounded (p : Int) (v : PointVal) : Prop := v.1.natAbs ≤ p.natAbs ∧ v.2.natAbs ≤ p.natAbs

section
variable {p : Int} {P Q v : PointVal}

theorem IsReduced.isBounded (h : IsReduced p v) : IsBounded p v := by
  obtain ⟨hx0, hxp, hy0, hyp⟩ := h
  exact ⟨by omega, by omega⟩

theorem isBounded_of_addPoints (h : addPoints P Q p = some v) : IsBounded p v :=
  (isReduced_of_addPoints h).isBounded

theorem isBounded_of_doublePoint (h : doublePoint P p = some v) : IsBounded p v := by
  obtain ⟨-, rfl⟩ | ⟨-, hdefined, lam, -, rfl⟩ := exists_slope_of_doublePoint h
  · exact ⟨Nat.zero_le _, Nat.zero_le _⟩
  · exact (isReduced_thirdPoint (inverseDefined_iff.mp hdefined).1 lam P P.1).isBounded

theorem isBounded_of_multiplyPoint {k : Nat} (hk : 2 ≤ k) (h : multiplyPoint k Q p = some v) : IsBounded p v := by
  obtain ⟨acc, -, hdouble | ⟨acc2, -, hadd⟩⟩ := exists_last_operation hk h
  · exact isBounded_of_doublePoint hdouble
  · exact isBounded_of_addPoints hadd

end

/-- Canonical coordinates are those of their values (10_state.md R24). -/
theorem Machine.pointOf_pointVal {X : Point} (hx : X.x.canonical = true) (hy : X.y.canonical = true) :
    Machine.pointOf (Machine.pointVal X) = X := by
  rw [Machine.pointOf, Machine.pointVal, Integer.ofInt_val hx, Integer.ofInt_val hy]

theorem Machine.pointOf_thirdPoint (p lam x y x2 : Int) :
    Machine.pointOf (thirdPoint p lam (x, y) x2) =
      { x := Integer.ofInt ((lam * lam - x - x2) % p)
        y := Integer.ofInt ((lam * (x - (lam * lam - x - x2) % p) - y) % p) } := rfl

theorem Config.holds_iff {c : Config} {A : Integer} :
    c.holds A = true ↔ A.canonical = true ∧ c.fits A = true := by
  rw [Config.holds, Bool.and_eq_true]

theorem Config.holdsPoint_iff {c : Config} {X : Point} :
    c.holdsPoint X = true ↔ c.holds X.x = true ∧ c.holds X.y = true := by
  rw [Config.holdsPoint, Bool.and_eq_true]

end Sys2Proof

namespace Sys2Proof.Machine

/-! ### PADD, PDBL, PMUL (R207, R209, R212) -/

section
variable {s : State} {d a b : RegIdx}

/-- A result no larger than a modulus that a register holds is written (R27). -/
theorem finish_pointResult_of_isBounded (d : RegIdx) {M : Integer} {v : PointVal} (hM : s.cfg.holds M = true)
    (hv : IsBounded M.val v) : finish s (pointResult d (some v) s) = .next (s.setP d (pointOf v)).complete := by
  obtain ⟨hcanonical, hfits⟩ := Config.holds_iff.mp hM
  rw [← Integer.ofInt_val hcanonical] at hfits
  obtain ⟨hx, hy⟩ := hv
  exact finish_writeP_of_fits d
    (Config.fitsPoint_iff.mpr ⟨Config.fits_of_natAbs_le hx hfits, Config.fits_of_natAbs_le hy hfits⟩)

theorem exec_padd_of_sum {X Y : Point} {k : CurveContext} {v : PointVal} (hX : s.pReg a = some X)
    (hY : s.pReg b = some Y) (hk : s.curve = some k) (hholds : s.cfg.holds k.p = true) (hne : k.p.val ≠ 0)
    (hv : addPoints (pointVal X) (pointVal Y) k.p.val = some v) :
    exec (.padd d a b) s = .next (s.setP d (pointOf v)).complete := by
  rw [exec_padd_of_valid hX hY hk, Integer.isZero_of_val_ne_zero hne, if_neg Bool.false_ne_true, hv]
  exact finish_pointResult_of_isBounded d hholds (isBounded_of_addPoints hv)

theorem exec_pdbl_of_double {X : Point} {k : CurveContext} {v : PointVal} (hX : s.pReg a = some X)
    (hk : s.curve = some k) (hholds : s.cfg.holds k.p = true) (hne : k.p.val ≠ 0)
    (hv : doublePoint (pointVal X) k.p.val = some v) :
    exec (.pdbl d a) s = .next (s.setP d (pointOf v)).complete := by
  rw [exec_pdbl_of_valid hX hk, Integer.isZero_of_val_ne_zero hne, if_neg Bool.false_ne_true, hv]
  exact finish_pointResult_of_isBounded d hholds (isBounded_of_doublePoint hv)

end

/-- Settles O54: the given inverse gives a slope of the chord. -/
theorem paddWritesTheSum : Obligations.PaddWritesTheSum := by
  unfold Obligations.PaddWritesTheSum
  intro d a b s X Y k hX hY hk hholds
  refine ⟨fun i hp hodd hne hi => ?sum, fun hzero => ?zero⟩
  case sum =>
    have hsum : addPoints (pointVal X) (pointVal Y) k.p.val =
        some (thirdPoint k.p.val _ (X.x.val, X.y.val) Y.x.val) :=
      addPoints_of_slope hne (inverseDefined_of_mul_modEq_one hp hodd hi)
        (mul_quotient_modEq hi (Y.y.val - X.y.val))
    have hexec := exec_padd_of_sum (d := d) hX hY hk hholds hp.ne' hsum
    rwa [pointOf_thirdPoint] at hexec
  case zero => rw [exec_padd_of_valid hX hY hk, if_pos (k.p.isZero_iff.mpr hzero), finish_trap]

/-- Settles O55: the given inverse gives a slope of the tangent. -/
theorem pdblWritesTheDouble : Obligations.PdblWritesTheDouble := by
  unfold Obligations.PdblWritesTheDouble
  intro d a s X k hX hk _ hholds
  refine ⟨fun i hp hodd hne hi => ?double, fun hne hx hy => ?origin, fun hzero => ?zero⟩
  case double =>
    have hdouble : doublePoint (pointVal X) k.p.val = some (thirdPoint k.p.val _ (X.x.val, X.y.val) X.x.val) :=
      doublePoint_of_slope (mt eq_origin_iff.mp hne) (inverseDefined_of_mul_modEq_one hp hodd hi)
        (mul_quotient_modEq hi (3 * (X.x.val * X.x.val)))
    have hexec := exec_pdbl_of_double (d := d) hX hk hholds hp.ne' hdouble
    rwa [pointOf_thirdPoint, sub_sub, ← two_mul] at hexec
  case origin =>
    have hX0 : pointVal X = (0, 0) := Prod.ext hx hy
    have hdouble : doublePoint (pointVal X) k.p.val = some (0, 0) := by rw [hX0, doublePoint_origin]
    exact exec_pdbl_of_double hX hk hholds hne hdouble
  case zero => rw [exec_pdbl_of_valid hX hk, if_pos (k.p.isZero_iff.mpr hzero), finish_trap]

/-- Settles O56: the checks in R212's order; from 2 on the result comes from a double or a sum, so it fits. -/
theorem pmulWritesTheMultiple : Obligations.PmulWritesTheMultiple := by
  unfold Obligations.PmulWritesTheMultiple
  intro d a b s k Q E hk hQ hE
  rw [exec_pmul_of_valid hk hQ hE]
  refine ⟨fun hrange => ?range, fun hpos hle => ?_⟩
  case range => rw [if_pos hrange, finish_trap]
  have hmag : k.val.toNat = k.mag := by rw [← k.natAbs_val]; omega
  rw [if_neg (by omega), ← hmag]
  refine ⟨fun hone hholds => ?one, fun htwo hzero => ?zero, fun htwo hne _ hholds v hv => ?multiple⟩
  case one =>
    obtain ⟨hx, hy⟩ := Config.holdsPoint_iff.mp hholds
    obtain ⟨hcanonicalX, hfitsX⟩ := Config.holds_iff.mp hx
    obtain ⟨hcanonicalY, hfitsY⟩ := Config.holds_iff.mp hy
    rw [if_neg (by omega), hone, Int.toNat_one, multiplyPoint_one, pointResult_some,
      pointOf_pointVal hcanonicalX hcanonicalY]
    exact finish_writeP_of_fits d (Config.fitsPoint_iff.mpr ⟨hfitsX, hfitsY⟩)
  case zero => rw [if_pos ⟨htwo, E.p.isZero_iff.mpr hzero⟩, finish_trap]
  case multiple =>
    rw [Integer.isZero_of_val_ne_zero hne, if_neg fun h => Bool.false_ne_true h.2, hv]
    exact finish_pointResult_of_isBounded d hholds (isBounded_of_multiplyPoint (by omega) hv)

/-! ### CSEL, CSET, PLDG (R202 to R204) -/

section
variable {s : State}

theorem finish_writeCurve_of_fits {k : CurveContext} (hp : s.cfg.fits k.p = true) (hn : s.cfg.fits k.n = true)
    (hg : s.cfg.fitsPoint k.g = true) :
    finish s (s.writeCurve k) = .next { s with curve := some k }.complete := by
  rw [(s.writeCurve_eq_ok k _).mpr ⟨⟨hp, hn, hg⟩, rfl⟩]
  rfl

theorem finish_writeCurve_of_not_fits {k : CurveContext} (hp : s.cfg.fits k.p = false) :
    finish s (s.writeCurve k) = .next (s.faultEntry .capacity) := by
  rw [State.writeCurve, hp]
  rfl

theorem exec_csel_of_unnamed {imm : BitVec 32} (s : State) (himm : imm ≠ 0) :
    exec (.csel imm) s = .next (s.faultEntry .noCurve) := by
  have hid : unsignedImm imm ≠ 0 := fun h => himm (BitVec.eq_of_toNat_eq h)
  rw [exec, execCsel, curveSet, if_neg hid]
  rfl

theorem exec_csel_zero (s : State) : exec (.csel 0) s = finish s (s.writeCurve secp256k1) := rfl

theorem exec_cset_of_valid {a b c : RegIdx} {p n : Integer} {g : Point} (hp : s.rReg a = some p)
    (hn : s.rReg b = some n) (hg : s.pReg c = some g) :
    exec (.cset a b c) s = finish s (s.writeCurve { p := p, n := n, g := g }) := by
  rw [exec, execCset, State.readR_of_valid hp, State.readR_of_valid hn, State.readP_of_valid hg]
  rfl

theorem exec_pldg_of_valid {k : CurveContext} (d : RegIdx) (hk : s.curve = some k) :
    exec (.pldg d) s = finish s (s.writeP d k.g) := by
  rw [exec, execPldg, State.readCurve_of_valid hk]
  rfl

theorem exec_pldg_of_noCurve (d : RegIdx) (hk : s.curve = none) :
    exec (.pldg d) s = .next (s.faultEntry .noCurve) := by
  rw [exec, execPldg, State.readCurve, hk]
  rfl

end

/-- A value of 235 to 256 bits takes ten limbs (10_state.md R22). -/
theorem fits_ofInt_of_ten_limbs (c : Config) {z : Int} (hlow : 2 ^ (26 * 9) ≤ z.natAbs)
    (hhigh : z.natAbs < 2 ^ 256) : c.fits (Integer.ofInt z) = c.admits 10 := by
  have hsize : 26 * 9 < Nat.size z.natAbs := Nat.lt_size.mpr hlow
  have hsize' : Nat.size z.natAbs ≤ 256 := Nat.size_le.mpr hhigh
  have hten : limbCount z.natAbs = 10 := by rw [limbCount_eq_size]; omega
  rw [Config.fits, Integer.length_ofInt, hten]

/-- Each constant of secp256k1 takes ten limbs. -/
theorem fits_secp256k1 (c : Config) :
    c.fits secp256k1.p = c.admits 10 ∧ c.fits secp256k1.n = c.admits 10 ∧
      c.fitsPoint secp256k1.g = c.admits 10 := by
  have hx : c.fits secp256k1.g.x = c.admits 10 := fits_ofInt_of_ten_limbs c (by norm_num) (by norm_num)
  have hy : c.fits secp256k1.g.y = c.admits 10 := fits_ofInt_of_ten_limbs c (by norm_num) (by norm_num)
  refine ⟨fits_ofInt_of_ten_limbs c (by norm_num) (by norm_num),
    fits_ofInt_of_ten_limbs c (by norm_num) (by norm_num), ?_⟩
  rw [Config.fitsPoint, hx, hy, Bool.and_self]

/-- Settles O53: the constants of secp256k1 take ten limbs each, and the rest are copies. -/
theorem curveContextCommands : Obligations.CurveContextCommands := by
  unfold Obligations.CurveContextCommands
  intro s
  obtain ⟨hp, hn, hg⟩ := fits_secp256k1 s.cfg
  refine ⟨fun imm => exec_csel_of_unnamed s, fun hten => ?fits, fun hten => ?capacity,
    fun a b c p n g hp hn hg hfitsP hfitsN hfitsG =>
      (exec_cset_of_valid hp hn hg).trans (finish_writeCurve_of_fits hfitsP hfitsN hfitsG),
    fun d k hk hfits => (exec_pldg_of_valid d hk).trans (finish_writeP_of_fits d hfits),
    fun d => exec_pldg_of_noCurve d⟩
  case fits =>
    have hprime : (2 ^ 256 - 2 ^ 32 - 977 : Int) =
        0xFFFFFFFFFFFFFFFFFFFFFFFFFFFFFFFFFFFFFFFFFFFFFFFFFFFFFFFEFFFFFC2F := by norm_num
    rw [hprime]
    exact (exec_csel_zero s).trans
      (finish_writeCurve_of_fits (hp.trans hten) (hn.trans hten) (hg.trans hten))
  case capacity => exact (exec_csel_zero s).trans (finish_writeCurve_of_not_fits (hp.trans hten))

end Sys2Proof.Machine
end

section
/-! The order in which a command checks its operands (60_exceptions.md R233 points 1 to 3): its destinations, its
Integer sources, its Point sources, `CURVE`, and only then anything else. -/

namespace Sys2Proof.Machine

/-! ### A computation that begins with its sources -/

/-- The computation reads the listed Integer registers, then the listed Point registers, then, if the flag is
set, `CURVE`, before it does anything else. -/
inductive ReadsFirst (s : State) : List RegIdx → List RegIdx → Bool → Except Stop State → Prop
  | rest (x : Except Stop State) : ReadsFirst s [] [] false x
  | readCurve (f : CurveContext → Except Stop State) : ReadsFirst s [] [] true (s.readCurve >>= f)
  | readP (j : RegIdx) {ps : List RegIdx} {curve : Bool} {f : Point → Except Stop State}
      (hf : ∀ X, ReadsFirst s [] ps curve (f X)) : ReadsFirst s [] (j :: ps) curve (s.readP j >>= f)
  | readR (j : RegIdx) {rs ps : List RegIdx} {curve : Bool} {f : Integer → Except Stop State}
      (hf : ∀ A, ReadsFirst s rs ps curve (f A)) : ReadsFirst s (j :: rs) ps curve (s.readR j >>= f)

section
variable {s : State} {rs ps : List RegIdx} {curve : Bool} {x : Except Stop State}

/-- The first register read that is not valid ends the computation (10_state.md R26, R29). -/
theorem ReadsFirst.eq_uninit (h : ReadsFirst s rs ps curve x)
    (hnone : (∃ j ∈ rs, s.rReg j = none) ∨ ∃ j ∈ ps, s.pReg j = none) : x = .error (.trap .uninit) := by
  induction h with
  | rest x => simp at hnone
  | readCurve f => simp at hnone
  | readP j _ ih =>
    cases hj : s.pReg j with
    | none => rw [State.readP_of_invalid hj]; rfl
    | some X =>
      rw [State.readP_of_valid hj]
      exact ih X (by simpa [hj] using hnone)
  | readR j _ ih =>
    cases hj : s.rReg j with
    | none => rw [State.readR_of_invalid hj]; rfl
    | some A =>
      rw [State.readR_of_valid hj]
      exact ih A (by simpa [hj] using hnone)

theorem State.readCurve_of_invalid (h : s.curve = none) : s.readCurve = .error (.trap .noCurve) := by
  rw [State.readCurve, h]

/-- With every register valid, an invalid `CURVE` ends the computation (10_state.md R30). -/
theorem ReadsFirst.eq_noCurve (h : ReadsFirst s rs ps curve x) (hr : ∀ j ∈ rs, s.rReg j ≠ none)
    (hp : ∀ j ∈ ps, s.pReg j ≠ none) (hcurve : curve = true) (hnone : s.curve = none) :
    x = .error (.trap .noCurve) := by
  induction h with
  | rest x => cases hcurve
  | readCurve f => rw [State.readCurve_of_invalid hnone]; rfl
  | readP j _ ih =>
    obtain ⟨hj, hp⟩ := List.forall_mem_cons.mp hp
    obtain ⟨X, hX⟩ := Option.ne_none_iff_exists'.mp hj
    rw [State.readP_of_valid hX]
    exact ih X hr hp hcurve
  | readR j _ ih =>
    obtain ⟨hj, hr⟩ := List.forall_mem_cons.mp hr
    obtain ⟨A, hA⟩ := Option.ne_none_iff_exists'.mp hj
    rw [State.readR_of_valid hA]
    exact ih A hr hp hcurve

theorem ReadsFirst.destinationsDiffer {d c : RegIdx} {f : Unit → Except Stop State} (hdc : (d != c) = true)
    (hf : ReadsFirst s rs ps curve (f ())) : ReadsFirst s rs ps curve (destinationsDiffer d c >>= f) := by
  rw [(destinationsDiffer_eq_ok d c).mpr (bne_iff_ne.mp hdc)]
  exact hf

theorem ReadsFirst.divisionResult (a b : RegIdx) (f : Integer × Integer → Except Stop State) :
    ReadsFirst s [a, b] [] false (divisionResult a b s >>= f) := by
  simp only [Machine.divisionResult, bind_assoc]
  exact .readR a fun _ => .readR b fun _ => .rest _

end

/-! ### All commands -/

/-- Every command whose destinations are in order begins with the sources 10_state.md R39 lists for it. -/
theorem exec_readsFirst (i : Instr) (s : State) (hi : i.wellFormed = true) :
    ∃ x, exec i s = finish s x ∧ ReadsFirst s i.readsR i.readsP i.readsCurve x := by
  cases i with
  | ldi | ldb | lds | csel => exact ⟨_, rfl, .rest _⟩
  | sts | sqr | neg | mov | shl | shlip | shr | shrip => exact ⟨_, rfl, .readR _ fun _ => .rest _⟩
  | add | addip | sub | subip | mul | mulip | modinv | pmk =>
    exact ⟨_, rfl, .readR _ fun _ => .readR _ fun _ => .rest _⟩
  | shro | shripo => exact ⟨_, rfl, .destinationsDiffer hi <| .readR _ fun _ => .rest _⟩
  | divq | divr => exact ⟨_, rfl, .divisionResult _ _ _⟩
  | divqr => exact ⟨_, rfl, .destinationsDiffer hi <| .divisionResult _ _ _⟩
  | cset => exact ⟨_, rfl, .readR _ fun _ => .readR _ fun _ => .readP _ fun _ => .rest _⟩
  | pgx | pgy | pmov | psts => exact ⟨_, rfl, .readP _ fun _ => .rest _⟩
  | peq => exact ⟨_, rfl, .readP _ fun _ => .readP _ fun _ => .rest _⟩
  | pldg => exact ⟨_, rfl, .readCurve _⟩
  | padd => exact ⟨_, rfl, .readP _ fun _ => .readP _ fun _ => .readCurve _⟩
  | pdbl => exact ⟨_, rfl, .readP _ fun _ => .readCurve _⟩
  | pmul => exact ⟨_, rfl, .readR _ fun _ => .readP _ fun _ => .readCurve _⟩

theorem exec_of_not_wellFormed {i : Instr} (s : State) (hi : i.wellFormed = false) :
    exec i s = .next (s.faultEntry .illegal) := by
  obtain ⟨hshro, hshripo, hdivqr, hill⟩ := twoDestinationsMustDiffer s
  obtain ⟨d, a, imm, rfl⟩ | ⟨d, imm, rfl⟩ | ⟨d, a, b, rfl⟩ := (hill i).mp hi
  · exact hshro d a imm
  · exact hshripo d imm
  · exact hdivqr d a b

/-- Settles O22: the destinations are checked first, and a command whose destinations are in order begins with
its sources. -/
theorem firstFaultWins : Obligations.FirstFaultWins := by
  unfold Obligations.FirstFaultWins
  refine fun i s => ⟨exec_of_not_wellFormed s, fun hi => ?_⟩
  obtain ⟨x, hexec, hreads⟩ := exec_readsFirst i s hi
  refine ⟨fun hnone => ?uninit, fun hr hp hcurve hnone => ?noCurve⟩
  case uninit => rw [hexec, hreads.eq_uninit hnone, finish_trap]
  case noCurve => rw [hexec, hreads.eq_noCurve hr hp hcurve hnone, finish_trap]

end Sys2Proof.Machine
end

section
/-! The faults each command can raise (60_exceptions.md R232), from the order of the checks and from what every
command does on valid sources. -/

namespace Sys2Proof.Machine

/-- The command changes no `FAULT`, or it enters the fault state with a code that R232 lists for it. -/
inductive EndsAsListed (i : Instr) (s : State) : Prop
  | unfaulted (t : State) (hexec : exec i s = .next t) (hfault : t.status.fault = s.status.fault)
  | faulted (c : FaultCode) (hexec : exec i s = .next (s.faultEntry c))
      (hc : c ∈ i.mayRaise := by simp [Instr.mayRaise])

/-- What a command finds once the checks of R233 points 1 to 3 are passed. -/
structure SourcesValid (i : Instr) (s : State) : Prop where
  wellFormed : i.wellFormed = true
  r : ∀ j ∈ i.readsR, ∃ A, s.rReg j = some A
  p : ∀ j ∈ i.readsP, ∃ X, s.pReg j = some X
  curve : i.readsCurve = true → ∃ k, s.curve = some k

theorem SourcesValid.rReg {i : Instr} {s : State} (h : SourcesValid i s) (j : RegIdx)
    (hj : j ∈ i.readsR := by simp [Instr.readsR]) : ∃ A, s.rReg j = some A := h.r j hj

theorem SourcesValid.pReg {i : Instr} {s : State} (h : SourcesValid i s) (j : RegIdx)
    (hj : j ∈ i.readsP := by simp [Instr.readsP]) : ∃ X, s.pReg j = some X := h.p j hj

/-! ### The faults of invalid sources -/

/-- R232 lists `F_ILLEGAL` for the three commands with two destinations. -/
theorem illegal_mem_mayRaise {i : Instr} (hi : i.wellFormed = false) : .illegal ∈ i.mayRaise := by
  obtain ⟨d, a, imm, rfl⟩ | ⟨d, imm, rfl⟩ | ⟨d, a, b, rfl⟩ := i.wellFormed_eq_false_iff.mp hi <;>
    exact List.mem_cons_self

/-- R232 lists `F_UNINIT` for every command with a source register. -/
theorem uninit_mem_mayRaise {i : Instr} {j : RegIdx} (hj : j ∈ i.readsR ∨ j ∈ i.readsP) : .uninit ∈ i.mayRaise := by
  cases i <;> simp_all [Instr.readsR, Instr.readsP, Instr.mayRaise]

/-- R232 lists `F_NOCURVE` for every command that reads `CURVE`. -/
theorem noCurve_mem_mayRaise {i : Instr} (hi : i.readsCurve = true) : .noCurve ∈ i.mayRaise := by
  cases i <;> simp_all [Instr.readsCurve, Instr.mayRaise]

/-- The table lists the faults of the first three checks for every command that makes them, so only a command
with valid sources is left to look at. -/
theorem endsAsListed_of_sources {i : Instr} {s : State} (h : SourcesValid i s → EndsAsListed i s) :
    EndsAsListed i s := by
  obtain ⟨hillegal, hlegal⟩ := firstFaultWins i s
  cases hi : i.wellFormed with
  | false => exact .faulted _ (hillegal hi) (illegal_mem_mayRaise hi)
  | true =>
    obtain ⟨huninit, hnoCurve⟩ := hlegal hi
    by_cases hr : ∃ j ∈ i.readsR, s.rReg j = none
    · obtain ⟨j, hj, hnone⟩ := hr
      exact .faulted _ (huninit (.inl ⟨j, hj, hnone⟩)) (uninit_mem_mayRaise (.inl hj))
    by_cases hp : ∃ j ∈ i.readsP, s.pReg j = none
    · obtain ⟨j, hj, hnone⟩ := hp
      exact .faulted _ (huninit (.inr ⟨j, hj, hnone⟩)) (uninit_mem_mayRaise (.inr hj))
    push Not at hr hp
    by_cases hcurve : i.readsCurve = true ∧ s.curve = none
    · obtain ⟨hreads, hnone⟩ := hcurve
      exact .faulted _ (hnoCurve hr hp hreads hnone) (noCurve_mem_mayRaise hreads)
    exact h {
      wellFormed := hi
      r := fun j hj => Option.ne_none_iff_exists'.mp (hr j hj)
      p := fun j hj => Option.ne_none_iff_exists'.mp (hp j hj)
      curve := fun hreads => Option.ne_none_iff_exists'.mp fun hnone => hcurve ⟨hreads, hnone⟩ }

/-! ### The ends of a command -/

section
variable {i : Instr} {s : State}

theorem endsAsListed_of_writeR {d : RegIdx} {A : Integer} (hexec : exec i s = finish s (s.writeR d A))
    (hc : .capacity ∈ i.mayRaise := by simp [Instr.mayRaise]) : EndsAsListed i s := by
  cases hfits : s.cfg.fits A with
  | true => exact .unfaulted _ (hexec.trans (finish_writeR_of_fits d hfits)) rfl
  | false => exact .faulted _ (hexec.trans (finish_writeR_of_not_fits d hfits)) hc

theorem fault_withText (s : State) (text : List Byte) :
    (s.withText text).complete.status.fault = s.status.fault :=
  (Effect.writeText text).apply_fault s

theorem endsAsListed_of_undefinedInteger {d : RegIdx} (h : UndefinedInteger i d s) : EndsAsListed i s := by
  obtain hstuck | ⟨A, -, hdone⟩ := h
  · exact .unfaulted _ hstuck rfl
  · exact .unfaulted _ hdone rfl

/-- A result, if there is one, fits; otherwise the input is undefined, and raises no fault (R250). -/
theorem endsAsListed_of_pointResult {d : RegIdx} {M : Integer} {v : Option PointVal} (hs : s.Inv)
    (hexec : exec i s = finish s (pointResult d v s)) (hM : s.cfg.holds M = true)
    (hv : ∀ w, v = some w → IsBounded M.val w) : EndsAsListed i s := by
  cases v with
  | some w => exact .unfaulted _ (hexec.trans (finish_pointResult_of_isBounded d hM (hv w rfl))) rfl
  | none =>
    obtain hstuck | ⟨A, -, hdone⟩ := undefinedPoint_of_exec hs.cfgLegal hexec
    · exact .unfaulted _ hstuck rfl
    · exact .unfaulted _ hdone rfl

/-! ### The contracts of the Integer commands -/

theorem BinaryContract.endsAsListed {d a b : RegIdx} {f : Int → Int → Int} (h : BinaryContract i d a b f)
    (hs : s.Inv) (hi : i.mayRaise = [.uninit, .capacity]) : EndsAsListed i s := by
  obtain ⟨hvalid, hinvalid⟩ := h s
  cases hA : s.rReg a with
  | none => exact .faulted _ (hinvalid (.inl hA)) (by simp [hi])
  | some A =>
    cases hB : s.rReg b with
    | none => exact .faulted _ (hinvalid (.inr hB)) (by simp [hi])
    | some B =>
      obtain ⟨hfits, hlong⟩ := hvalid A B hA hB (hs.canonical_of_rReg hA) (hs.canonical_of_rReg hB)
      cases hresult : s.cfg.fits (Integer.ofInt (f A.val B.val)) with
      | true => exact .unfaulted _ (hfits hresult) rfl
      | false => exact .faulted _ (hlong hresult) (by simp [hi])

theorem UnaryContract.endsAsListed {d a : RegIdx} {f : Int → Int} (h : UnaryContract i d a f)
    (hs : s.Inv) (hi : i.mayRaise = [.uninit, .capacity]) : EndsAsListed i s := by
  obtain ⟨hvalid, hinvalid⟩ := h s
  cases hA : s.rReg a with
  | none => exact .faulted _ (hinvalid hA) (by simp [hi])
  | some A =>
    obtain ⟨hfits, hlong⟩ := hvalid A hA (hs.canonical_of_rReg hA)
    cases hresult : s.cfg.fits (Integer.ofInt (f A.val)) with
    | true => exact .unfaulted _ (hfits hresult) rfl
    | false => exact .faulted _ (hlong hresult) (by simp [hi])

theorem State.Inv.fits_of_rReg (hs : s.Inv) {j : RegIdx} {A : Integer} (hA : s.rReg j = some A) :
    s.cfg.fits A = true :=
  (Config.holds_iff.mp (hs.holds_of_rReg hA)).2

theorem ShorteningContract.endsAsListed {d a : RegIdx} {f : Int → Int} (h : ShorteningContract i d a f)
    (hs : s.Inv) (hi : i.mayRaise = [.uninit]) : EndsAsListed i s := by
  obtain ⟨hvalid, hinvalid⟩ := h s
  cases hA : s.rReg a with
  | none => exact .faulted _ (hinvalid hA) (by simp [hi])
  | some A => exact .unfaulted _ (hvalid A hA (hs.canonical_of_rReg hA) (hs.fits_of_rReg hA)) rfl

theorem SideOutputContract.endsAsListed {d c a : RegIdx} {n : Nat} (h : SideOutputContract i d c a n)
    (hs : s.Inv) (hi : i.mayRaise = [.illegal, .uninit]) : EndsAsListed i s := by
  obtain ⟨hvalid, hinvalid, hillegal⟩ := h s
  by_cases hdc : d = c
  · exact .faulted _ (hillegal hdc) (by simp [hi])
  cases hA : s.rReg a with
  | none => exact .faulted _ (hinvalid hdc hA) (by simp [hi])
  | some A => exact .unfaulted _ (hvalid A hdc hA (hs.canonical_of_rReg hA) (hs.fits_of_rReg hA)) rfl

end

/-! ### Conversion (R90 to R93, R181, R196) -/

section
variable {s : State} {d a b c : RegIdx}

theorem endsAsListed_ldb : EndsAsListed (.ldb d) s := by
  obtain ⟨htooLong, hnoByte, -, -⟩ := ldbLoadsBigEndian d s
  cases hholds : s.bufferHolds s.iolen.toNat with
  | false => exact .faulted _ (htooLong hholds)
  | true =>
    obtain hzero | hpos := Nat.eq_zero_or_pos s.iolen.toNat
    · exact .faulted _ (hnoByte hholds hzero)
    · exact endsAsListed_of_writeR (exec_ldb_of_bytes d hholds hpos)

/-- The parser raises no fault but the two of R93. -/
theorem parseText_eq_error {base : Nat} {text : List Byte} {e : FaultCode} (h : parseText base text = .error e) :
    e = .noDigits ∨ e = .badDigit := by
  obtain ⟨negative, digits, hsplit⟩ := exists_splitsAs text
  rw [parseText_of_splitsAs base hsplit] at h
  split at h
  next => cases h; exact .inl rfl
  next =>
    cases hz : parseDigits base 0 digits with
    | none => rw [hz] at h; cases h; exact .inr rfl
    | some z => rw [hz] at h; cases h

theorem endsAsListed_lds {m : BitVec 8} : EndsAsListed (.lds d m) s := by
  by_cases hm : IsLegalBase m
  case neg => exact .faulted _ (exec_lds_of_illegalBase d s hm)
  cases hholds : s.bufferHolds s.iolen.toNat with
  | false => exact .faulted _ (exec_lds_of_not_holds d hm hholds)
  | true =>
    cases hparse : parseText (if m = 16 then 16 else 10) s.content with
    | ok z => exact endsAsListed_of_writeR (exec_lds_of_parseText_ok d hm hholds hparse)
    | error e =>
      refine .faulted _ (exec_lds_of_parseText_error d hm hholds hparse) ?_
      obtain rfl | rfl := parseText_eq_error hparse <;> simp [Instr.mayRaise]

theorem endsAsListed_sts {m : BitVec 8} (h : SourcesValid (.sts a m) s) : EndsAsListed (.sts a m) s := by
  obtain ⟨A, hA⟩ := h.rReg a
  by_cases hm : IsLegalBase m
  case neg => exact .faulted _ (exec_sts_of_illegalBase hA hm)
  cases hholds : s.bufferHolds (stsText A m).length with
  | true => exact .unfaulted _ (exec_sts_of_holds hA hm hholds) (fault_withText s _)
  | false => exact .faulted _ (exec_sts_of_not_holds hA hm hholds)

theorem endsAsListed_psts (h : SourcesValid (.psts a) s) : EndsAsListed (.psts a) s := by
  obtain ⟨X, hX⟩ := h.pReg a
  have hexec := exec_psts_of_valid hX
  cases hholds : s.bufferHolds (pointText X).length with
  | true => exact .unfaulted _ (hexec.trans (finish_storeText_of_holds hholds)) (fault_withText s _)
  | false => exact .faulted _ (hexec.trans (finish_storeText_of_not_holds hholds))

/-! ### Division and the inverse (R151, R172) -/

/-- A zero divisor is the only fault of the three division commands on valid sources. -/
theorem endsAsListed_divisions (d c : RegIdx) (hs : s.Inv) (ha : ∃ A, s.rReg a = some A)
    (hb : ∃ B, s.rReg b = some B) :
    EndsAsListed (.divq d a b) s ∧ EndsAsListed (.divr d a b) s ∧
      (d ≠ c → EndsAsListed (.divqr d c a b) s) := by
  obtain ⟨A, hA⟩ := ha
  obtain ⟨B, hB⟩ := hb
  cases hzero : B.isZero with
  | true =>
    obtain ⟨hdivq, hdivr, hdivqr⟩ := divisionByZeroFaults d c a b s A B hA hB hzero
    exact ⟨.faulted _ hdivq, .faulted _ hdivr,
      fun hdc => .faulted _ (hdivqr hdc)⟩
  | false =>
    have hne : B.val ≠ 0 := mt B.isZero_iff.mpr (Bool.eq_false_iff.mp hzero)
    obtain ⟨hdivq, hdivr, hdivqr⟩ := divisionFollowsTheSignTable d c a b s A B hA hB
      (hs.holds_of_rReg hA) (hs.holds_of_rReg hB) hne
    exact ⟨.unfaulted _ hdivq rfl, .unfaulted _ hdivr rfl, fun hdc => .unfaulted _ (hdivqr hdc) rfl⟩

theorem endsAsListed_modinv (hs : s.Inv) (h : SourcesValid (.modinv d a b) s) :
    EndsAsListed (.modinv d a b) s := by
  obtain ⟨A, hA⟩ := h.rReg a
  obtain ⟨P, hP⟩ := h.rReg b
  obtain ⟨hinverse, hzero⟩ := modinvWritesTheInverse d a b s A P hA hP (hs.canonical_of_rReg hA)
    (hs.holds_of_rReg hP)
  by_cases hP0 : P.val = 0
  · exact .faulted _ (hzero hP0)
  by_cases hdefined : 0 < P.val ∧ P.val % 2 = 1 ∧ Int.gcd A.val P.val = 1
  · obtain ⟨hpos, hodd, hgcd⟩ := hdefined
    obtain ⟨hx0, hxp, hax⟩ := isInverse_inverseVal hpos hodd hgcd
    exact .unfaulted _ (hinverse _ hpos hodd hx0 hxp hax) rfl
  · obtain ⟨hundefined, -⟩ := undefinedInputsWaitOrComplete d a b s hs.cfgLegal
    exact endsAsListed_of_undefinedInteger (hundefined A P hA hP hP0 hdefined)

/-! ### Points and `CURVE` (R191 to R204) -/

theorem State.Inv.holdsPoint_of_pReg (hs : s.Inv) {j : RegIdx} {X : Point} (hX : s.pReg j = some X) :
    s.cfg.holdsPoint X = true := by
  simpa [hX] using hs.pHeld j

theorem fitsPoint_of_holdsPoint {C : Config} {X : Point} (h : C.holdsPoint X = true) : C.fitsPoint X = true := by
  obtain ⟨hx, hy⟩ := Config.holdsPoint_iff.mp h
  exact Config.fitsPoint_iff.mpr ⟨(Config.holds_iff.mp hx).2, (Config.holds_iff.mp hy).2⟩

theorem State.Inv.fitsPoint_of_pReg (hs : s.Inv) {j : RegIdx} {X : Point} (hX : s.pReg j = some X) :
    s.cfg.fitsPoint X = true :=
  fitsPoint_of_holdsPoint (hs.holdsPoint_of_pReg hX)

theorem State.Inv.holds_of_curve (hs : s.Inv) {k : CurveContext} (hk : s.curve = some k) :
    s.cfg.holds k.p = true ∧ s.cfg.holdsPoint k.g = true := by
  have hheld := hs.curveHeld
  simp only [hk, Option.all_some, Bool.and_eq_true] at hheld
  exact ⟨hheld.1.1, hheld.2⟩

theorem endsAsListed_pmk (hs : s.Inv) (h : SourcesValid (.pmk d a b) s) : EndsAsListed (.pmk d a b) s := by
  obtain ⟨x, hx⟩ := h.rReg a
  obtain ⟨y, hy⟩ := h.rReg b
  obtain ⟨hmake, -⟩ := pointCommandsCopy d a b s
  exact .unfaulted _ (hmake x y hx hy (hs.fits_of_rReg hx) (hs.fits_of_rReg hy)) rfl

theorem endsAsListed_copies (d : RegIdx) (hs : s.Inv) (ha : ∃ X, s.pReg a = some X) :
    EndsAsListed (.pgx d a) s ∧ EndsAsListed (.pgy d a) s ∧ EndsAsListed (.pmov d a) s := by
  obtain ⟨X, hX⟩ := ha
  obtain ⟨-, hcopy⟩ := pointCommandsCopy d a a s
  obtain ⟨hpgx, hpgy, hpmov⟩ := hcopy X hX (hs.fitsPoint_of_pReg hX)
  exact ⟨.unfaulted _ hpgx rfl, .unfaulted _ hpgy rfl, .unfaulted _ hpmov rfl⟩

theorem endsAsListed_peq (h : SourcesValid (.peq a b) s) : EndsAsListed (.peq a b) s := by
  obtain ⟨X, hX⟩ := h.pReg a
  obtain ⟨Y, hY⟩ := h.pReg b
  exact .unfaulted _ (exec_peq_of_valid hX hY) rfl

theorem endsAsListed_csel {imm : BitVec 32} : EndsAsListed (.csel imm) s := by
  obtain ⟨hunnamed, hfits, hcapacity, -⟩ := curveContextCommands s
  by_cases himm : imm = 0
  case neg => exact .faulted _ (hunnamed imm himm)
  subst himm
  cases hten : s.cfg.admits 10 with
  | true => exact .unfaulted _ (hfits hten) rfl
  | false => exact .faulted _ (hcapacity hten)

theorem endsAsListed_cset (hs : s.Inv) (h : SourcesValid (.cset a b c) s) : EndsAsListed (.cset a b c) s := by
  obtain ⟨p, hp⟩ := h.rReg a
  obtain ⟨n, hn⟩ := h.rReg b
  obtain ⟨g, hg⟩ := h.pReg c
  obtain ⟨-, -, -, hcset, -⟩ := curveContextCommands s
  exact .unfaulted _ (hcset a b c p n g hp hn hg (hs.fits_of_rReg hp) (hs.fits_of_rReg hn)
    (hs.fitsPoint_of_pReg hg)) rfl

theorem endsAsListed_pldg (hs : s.Inv) (h : SourcesValid (.pldg d) s) : EndsAsListed (.pldg d) s := by
  obtain ⟨k, hk⟩ := h.curve rfl
  obtain ⟨-, hg⟩ := hs.holds_of_curve hk
  obtain ⟨-, -, -, -, hpldg, -⟩ := curveContextCommands s
  exact .unfaulted _ (hpldg d k hk (fitsPoint_of_holdsPoint hg)) rfl

/-! ### The curve unit (R207, R209, R212) -/

theorem endsAsListed_padd (hs : s.Inv) (h : SourcesValid (.padd d a b) s) : EndsAsListed (.padd d a b) s := by
  obtain ⟨X, hX⟩ := h.pReg a
  obtain ⟨Y, hY⟩ := h.pReg b
  obtain ⟨k, hk⟩ := h.curve rfl
  obtain ⟨hM, -⟩ := hs.holds_of_curve hk
  have hexec := exec_padd_of_valid (d := d) hX hY hk
  split at hexec
  next => exact .faulted _ hexec
  next => exact endsAsListed_of_pointResult hs hexec hM fun _ => isBounded_of_addPoints

theorem endsAsListed_pdbl (hs : s.Inv) (h : SourcesValid (.pdbl d a) s) : EndsAsListed (.pdbl d a) s := by
  obtain ⟨X, hX⟩ := h.pReg a
  obtain ⟨k, hk⟩ := h.curve rfl
  obtain ⟨hM, -⟩ := hs.holds_of_curve hk
  have hexec := exec_pdbl_of_valid (d := d) hX hk
  split at hexec
  next => exact .faulted _ hexec
  next => exact endsAsListed_of_pointResult hs hexec hM fun _ => isBounded_of_doublePoint

/-- The scalar 1 copies a Point that fits; a larger one gives coordinates no larger than the modulus. -/
theorem endsAsListed_pmul (hs : s.Inv) (h : SourcesValid (.pmul d a b) s) : EndsAsListed (.pmul d a b) s := by
  obtain ⟨k, hk⟩ := h.rReg a
  obtain ⟨Q, hQ⟩ := h.pReg b
  obtain ⟨E, hE⟩ := h.curve rfl
  obtain ⟨hM, -⟩ := hs.holds_of_curve hE
  obtain ⟨hrange, hlegal⟩ := pmulWritesTheMultiple d a b s k Q E hk hQ hE
  by_cases hk0 : k.val ≤ 0 ∨ E.n.val < k.val
  · exact .faulted _ (hrange hk0)
  obtain ⟨hone, hzero, -⟩ := hlegal (by omega) (by omega)
  by_cases hk1 : k.val = 1
  · exact .unfaulted _ (hone hk1 (hs.holdsPoint_of_pReg hQ)) rfl
  have hmag : 2 ≤ k.mag := by rw [← k.natAbs_val]; omega
  have hexec := exec_pmul_of_valid (d := d) hk hQ hE
  rw [if_neg hk0] at hexec
  split at hexec
  next => exact .faulted _ hexec
  next => exact endsAsListed_of_pointResult hs hexec hM fun _ => isBounded_of_multiplyPoint hmag

end

/-! ### All commands -/

/-- R232 for all thirty-five commands. -/
theorem endsAsListed (i : Instr) {s : State} (hs : s.Inv) : EndsAsListed i s := by
  refine endsAsListed_of_sources fun h => ?_
  cases i with
  | ldi d imm => exact .unfaulted _ (ldiLoadsItsImmediate d imm s hs.cfgLegal) rfl
  | ldb d => exact endsAsListed_ldb
  | lds d m => exact endsAsListed_lds
  | sts a m => exact endsAsListed_sts h
  | add d a b => exact (addWritesTheSum d a b).1.endsAsListed hs rfl
  | addip d b => exact (addWritesTheSum d d b).2.endsAsListed hs rfl
  | sub d a b => exact (subWritesTheDifference d a b).1.endsAsListed hs rfl
  | subip d b => exact (subWritesTheDifference d d b).2.endsAsListed hs rfl
  | mul d a b => exact (mulWritesTheProduct d a b).1.endsAsListed hs rfl
  | mulip d b =>
    obtain ⟨-, hmulip, -⟩ := mulWritesTheProduct d d b
    exact hmulip.endsAsListed hs rfl
  | sqr d a =>
    obtain ⟨-, -, hsqr⟩ := mulWritesTheProduct d a a
    exact hsqr.endsAsListed hs rfl
  | neg d a => exact (negAndMovWriteTheirValue d a).1.endsAsListed hs rfl
  | mov d a => exact (negAndMovWriteTheirValue d a).2.endsAsListed hs rfl
  | shl d a imm => exact (leftShiftsMultiply d a imm).1.endsAsListed hs rfl
  | shlip d imm => exact (leftShiftsMultiply d d imm).2.endsAsListed hs rfl
  | shr d a imm => exact (rightShiftsDivideTowardZero d a imm).1.endsAsListed hs rfl
  | shro d c a imm => exact (sideOutputsAreTheBitsShiftedOut d c a imm).1.endsAsListed hs rfl
  | shrip d imm => exact (rightShiftsDivideTowardZero d d imm).2.endsAsListed hs rfl
  | shripo d c imm => exact (sideOutputsAreTheBitsShiftedOut d c d imm).2.endsAsListed hs rfl
  | divq d a b =>
    obtain ⟨hdivq, -, -⟩ := endsAsListed_divisions d d hs (h.rReg a) (h.rReg b)
    exact hdivq
  | divr d a b =>
    obtain ⟨-, hdivr, -⟩ := endsAsListed_divisions d d hs (h.rReg a) (h.rReg b)
    exact hdivr
  | divqr d c a b =>
    obtain ⟨-, -, hdivqr⟩ := endsAsListed_divisions d c hs (h.rReg a) (h.rReg b)
    exact hdivqr (bne_iff_ne.mp h.wellFormed)
  | modinv d a b => exact endsAsListed_modinv hs h
  | csel imm => exact endsAsListed_csel
  | cset a b c => exact endsAsListed_cset hs h
  | pmk d a b => exact endsAsListed_pmk hs h
  | pgx d a =>
    obtain ⟨hpgx, -, -⟩ := endsAsListed_copies d hs (h.pReg a)
    exact hpgx
  | pgy d a =>
    obtain ⟨-, hpgy, -⟩ := endsAsListed_copies d hs (h.pReg a)
    exact hpgy
  | pmov d a =>
    obtain ⟨-, -, hpmov⟩ := endsAsListed_copies d hs (h.pReg a)
    exact hpmov
  | peq a b => exact endsAsListed_peq h
  | psts a => exact endsAsListed_psts h
  | pldg d => exact endsAsListed_pldg hs h
  | padd d a b => exact endsAsListed_padd hs h
  | pdbl d a => exact endsAsListed_pdbl hs h
  | pmul d a b => exact endsAsListed_pmul hs h

/-- Settles O21: by the order of the checks on sources, and by what each command does once they are valid. -/
theorem faultsAreTheListedOnes : Obligations.FaultsAreTheListedOnes := by
  unfold Obligations.FaultsAreTheListedOnes
  intro i s t hs hnext
  obtain ⟨u, hexec, hfault⟩ | ⟨c, hexec, hc⟩ := endsAsListed i hs
  · cases hexec.symm.trans hnext
    exact .inl hfault
  · cases hexec.symm.trans hnext
    exact .inr ⟨c, hc, rfl⟩

end Sys2Proof.Machine
end

section
/-! What reset clears (70_reset_and_hazards.md R260), and that nothing else ends a fault (60_exceptions.md R242). -/

namespace Sys2Proof.Machine

/-! ### Reset -/

/-- Settles O13: `H_RESET` is never disabled, and its values are those of the state right after power-on. -/
theorem resetClearsEverything : Obligations.ResetClearsEverything := by
  unfold Obligations.ResetClearsEverything
  exact ⟨fun s rest hturns => ⟨_, step_of_actFirst hturns, State.rReg_hostReset _, State.pReg_hostReset _,
      rfl, rfl, rfl, rfl, rfl⟩,
    fun c => ⟨State.rReg_resetWith c, State.pReg_resetWith c, rfl, rfl, rfl⟩⟩

/-! ### A faulted block waits for reset -/

/-- What a faulted block keeps until it is reset: `STATUS`, the registers, `CURVE` and `CMDREG` (log 2). -/
structure SameBlock (s t : State) : Prop where
  status : t.status = s.status
  r : t.r = s.r
  p : t.p = s.p
  curve : t.curve = s.curve
  cmdreg : t.cmdreg = s.cmdreg

theorem SameBlock.refl (s : State) : SameBlock s s := ⟨rfl, rfl, rfl, rfl, rfl⟩

theorem SameBlock.trans {s t u : State} (h : SameBlock s t) (h' : SameBlock t u) : SameBlock s u where
  status := h'.status.trans h.status
  r := h'.r.trans h.r
  p := h'.p.trans h.p
  curve := h'.curve.trans h.curve
  cmdreg := h'.cmdreg.trans h.cmdreg

section
variable {s : State}

/-- The HOST may still write the buffer and read; `H_ISSUE` is not enabled (20_memory.md R58). -/
theorem sameBlock_hostAct {a : HostAction} (hfault : s.status.fault ≠ 0) (hidle : s.status.busy = false)
    (ha : a ≠ .reset) : SameBlock s (hostAct s a) := by
  cases a with
  | reset => exact absurd rfl ha
  | wrBuf k b =>
    cases hk : s.inBuffer k with
    | true => rw [hostAct_wrBuf_of_enabled b hidle hk]; exact ⟨rfl, rfl, rfl, rfl, rfl⟩
    | false => rw [hostAct_wrBuf_of_disabled b (.inr hk)]; exact .refl s
  | wrLen n => rw [hostAct_wrLen_of_idle n hidle]; exact ⟨rfl, rfl, rfl, rfl, rfl⟩
  | rdBuf k =>
    cases hk : s.inBuffer k with
    | true => rw [hostAct_rdBuf_of_enabled hidle hk]; exact ⟨rfl, rfl, rfl, rfl, rfl⟩
    | false => rw [hostAct_rdBuf_of_outside hidle hk]; exact .refl s
  | rdLen => exact ⟨rfl, rfl, rfl, rfl, rfl⟩
  | rdStatus => exact ⟨rfl, rfl, rfl, rfl, rfl⟩
  | issue w => rw [hostAct_issue_of_disabled w (.inr hfault)]; exact .refl s

/-- `C_EXEC` is not enabled while `BUSY = 0` (20_memory.md R57). -/
theorem coreTurn_of_idle (hidle : s.status.busy = false) : coreTurn s = .next s := by
  rw [coreTurn, hidle, if_neg Bool.false_ne_true]

theorem step_of_faulted (hfault : s.status.fault ≠ 0) (hidle : s.status.busy = false)
    (hturns : .act .reset ∉ s.turns) : ∃ t, step s = .next t ∧ SameBlock s t ∧ t.turns = s.turns.tail := by
  cases hs : s.turns with
  | nil => exact ⟨s, (step_of_noTurns hs).trans (coreTurn_of_idle hidle), .refl s, hs⟩
  | cons turn rest =>
    cases turn with
    | core => exact ⟨_, (step_of_coreFirst hs).trans (coreTurn_of_idle hidle), ⟨rfl, rfl, rfl, rfl, rfl⟩, rfl⟩
    | act a =>
      have ha : a ≠ .reset := fun h => hturns (by simp [hs, h])
      have hturn : SameBlock s { s with turns := rest } := ⟨rfl, rfl, rfl, rfl, rfl⟩
      obtain ⟨-, hrest⟩ := hostAct_frame { s with turns := rest } a
      exact ⟨_, step_of_actFirst hs, hturn.trans (sameBlock_hostAct hfault hidle ha), hrest⟩

end

theorem run_succ_of_next (M : Host.Core) {n : Nat} {s t : M.State} (h : M.step s = .next t) :
    M.run (n + 1) s = M.run n t := by
  rw [Host.Core.run, h]

theorem run_of_faulted (n : Nat) {s : State} (hfault : s.status.fault ≠ 0) (hidle : s.status.busy = false)
    (hturns : .act .reset ∉ s.turns) : ∃ t : State, Sys2Proof.core.run n s = .next t ∧ SameBlock s t := by
  induction n generalizing s with
  | zero => exact ⟨s, rfl, .refl s⟩
  | succ n ih =>
    obtain ⟨u, hstep, hsame, hrest⟩ := step_of_faulted hfault hidle hturns
    obtain ⟨t, hrun, hsame'⟩ := ih (hsame.status ▸ hfault) (hsame.status ▸ hidle)
      (hrest ▸ fun h => hturns (List.mem_of_mem_tail h))
    exact ⟨t, (run_succ_of_next Sys2Proof.core hstep).trans hrun, hsame.trans hsame'⟩

/-- Settles O16: no turn but `H_RESET` changes what a faulted block keeps, and so no number of turns does. -/
theorem faultedBlockWaitsForReset : Obligations.FaultedBlockWaitsForReset := by
  unfold Obligations.FaultedBlockWaitsForReset
  intro n s hfault hidle hturns
  obtain ⟨t, hrun, hsame⟩ := run_of_faulted n hfault hidle hturns
  exact ⟨t, hrun, hsame.status, hsame.r, hsame.p, hsame.curve, hsame.cmdreg⟩

end Sys2Proof.Machine
end

section
/-! Commands one after another on one receiver (70_reset_and_hazards.md R265). -/

namespace Sys2Proof.Machine

theorem runCommands_cons {i : Instr} {s t : State} (h : exec i s = .next t) (is : List Instr) :
    runCommands (i :: is) s = runCommands is t := by
  rw [runCommands, h]

/-- Settles O40: by induction on the number of commands, the receiver holding the partial sum. -/
theorem repeatedAddipIsExact : Obligations.RepeatedAddipIsExact := by
  unfold Obligations.RepeatedAddipIsExact
  intro n d b s A B hdb hA hB hcanonicalA hcanonicalB hfits
  induction n generalizing s A with
  | zero =>
    refine ⟨s, rfl, ?_, fun _ _ => rfl⟩
    rw [Nat.cast_zero, zero_mul, add_zero, Integer.ofInt_val hcanonicalA, hA]
  | succ n ih =>
    obtain ⟨-, haddip⟩ := addWritesTheSum d d b
    obtain ⟨hvalid, -⟩ := haddip s
    obtain ⟨hcompletes, -⟩ := hvalid A B hA hB hcanonicalA hcanonicalB
    have hsum (k : Nat) : (Integer.ofInt (A.val + B.val)).val + k * B.val = A.val + (k + 1 : Nat) * B.val := by
      rw [Integer.val_ofInt, Nat.cast_succ]
      ring
    have hfirst : s.cfg.fits (Integer.ofInt (A.val + B.val)) = true := by
      simpa using hfits 1 (by omega)
    obtain ⟨t, hrun, hd, hframe⟩ := ih (s.setR d (Integer.ofInt (A.val + B.val))).complete
      (Integer.ofInt (A.val + B.val)) (s.rReg_setR_self d _) ((s.rReg_setR_of_ne _ hdb.symm).trans hB)
      (Integer.canonical_ofInt _) fun k hk => by
        rw [hsum]
        exact hfits (k + 1) (by omega)
    rw [hsum] at hd
    exact ⟨t, (runCommands_cons (hcompletes hfirst) _).trans hrun, hd,
      fun j hj => (hframe j hj).trans (s.rReg_setR_of_ne _ hj)⟩

end Sys2Proof.Machine
end
